-- ==== Sys2Proof/Word.lean ====
section
/-! DEFINITION. The bit-vector types of the slave event unit (SEU): a peripheral register (`REGW` bits, rule R5), a
command word (16 bits, rule R70) and a byte. -/

namespace Sys2Proof

/-- `REGW`, the width in bits of every peripheral register (rule R5). -/
abbrev Config.regw : Nat := 16

/-- A `REGW`-bit value: what one peripheral register holds (rules R5, R40). -/
abbrev Word := BitVec Config.regw

/-- One command word (rules R70, R85). -/
abbrev Command := BitVec 16

/-- A data byte (rules R25, R71). -/
abbrev Byte := BitVec 8

end Sys2Proof
end

