-- ==== Sys2Proof/Config.lean ====
section
/-! DEFINITION. What is fixed for one SEU and its peripheral: the parameters of rule R5 (every unaudited literal under
a name of its own), the `LAYOUT` record (rules R78 to R84), the types of the environment (the peripheral behind the
register port), and the free values, which are constants without a body. -/

namespace Sys2Proof

/-- The seven peripheral registers the SEU reaches (rule R20). -/
inductive Reg where
  | CR | TRISE | CCR | OAR | SR1 | SR2 | DR
  deriving DecidableEq, Repr, Inhabited

/-- The contents of the seven registers (rule R20), each `REGW` = 16 bits wide (rule R30). -/
structure RegFile where
  cr    : Word
  trise : Word
  ccr   : Word
  oar   : Word
  sr1   : Word
  sr2   : Word
  dr    : Word
  deriving DecidableEq, Repr, Inhabited

/-- The bus peripheral as far as the spec describes it. It is the ENVIRONMENT, not the SEU (rules R32, R33):
its registers, the two hidden "armed" elements of rule R32, and the byte last handed to it to transmit
(rules R25, R33, R55). -/
structure Periph where
  regs   : RegFile
  /-- address-match clear armed (rule R32) -/
  armA   : Bool
  /-- stop-detected clear armed (rule R32) -/
  armS   : Bool
  /-- the byte the peripheral was last given to transmit (rules R25, R55) -/
  txByte : Byte
  deriving DecidableEq, Repr, Inhabited

/-- What the outside world does around ONE register-port access (rules R45, R46, R176). -/
structure EnvMove where
  /-- what the bus engine left in registers just before the access, in order (rule R46); it may name any register,
  so every value a read returns is free -/
  engine : List (Reg × Word)
  /-- the peripheral right after the access: `none` when it reacts as rules R48 to R56 say, `some p` when it
  reacts in any other way (the premises of rule R57 are premises, never properties) -/
  react  : Option Periph
  /-- a change of the host's `tx_data` input before the access (rules R70, R176) -/
  tx     : Option Byte
  deriving DecidableEq, Repr, Inhabited

/-- A named field of more than one bit: its lowest bit and its width. -/
structure BitField where
  lo    : Nat
  width : Nat
  deriving DecidableEq, Repr

/-- `LAYOUT` (rules R5, R78 to R84): the offset of every register, the position of every named bit, and the place of
every named field of more than one bit. -/
structure Layout where
  offCR : Nat
  offTRISE : Nat
  offCCR : Nat
  offOAR : Nat
  offSR1 : Nat
  offSR2 : Nat
  offDR : Nat
  pe : Nat
  engc : Nat
  ack : Nat
  addr : Nat
  btf : Nat
  stopf : Nat
  rxne : Nat
  txe : Nat
  berr : Nat
  arlo : Nat
  af : Nat
  ovr : Nat
  pecerr : Nat
  timeout : Nat
  smbalert : Nat
  busy : Nat
  tra : Nat
  duty : Nat
  fs : Nat
  addmode : Nat
  /-- `CCR.CCRV`, the rate divisor (rule R82) -/
  ccrv : BitField
  /-- `TRISE.TRISE`, the rise time (rule R83) -/
  riseTime : BitField
  /-- `OAR.ADD`, the 7-bit own address (rule R84) -/
  add : BitField
  /-- `DR`'s one field, a byte (rules R25, R84) -/
  data : BitField
  deriving DecidableEq, Repr

namespace Config

/-- The identity string of the block (rule R1). -/
def identity : String :=
  "SEU-1 (codytrey/stm32f1xx-hal slave event unit, from reimplementation spec v7)"

/-- `FREQ_MAX_HZ` (rule R5). -/
def freqMaxHz : Nat := 400000
/-- `STD_DIV_MIN` (rule R5). -/
def stdDivMin : Nat := 4
/-- `FAST_DIV_MIN` (rule R5). -/
def fastDivMin : Nat := 1
/-- `STD_DIV_K` (rule R5). -/
def stdDivK : Nat := 2
/-- `FAST21_DIV_K` (rule R5). -/
def fast21DivK : Nat := 3
/-- `FAST169_DIV_K` (rule R5). -/
def fast169DivK : Nat := 25
/-- `FAST_RISE_NUM` (rule R5). -/
def fastRiseNum : Nat := 300
/-- `FAST_RISE_DEN` (rule R5). -/
def fastRiseDen : Nat := 1000
/-- Hertz in one megahertz, the divisor of rule R102. -/
def hzPerMHz : Nat := 1000000
/-- `STOP_CLEAR_MAX_ITER` (rules R5, R163). -/
def stopClearMaxIter : Nat := 8
/-- `TRISE_BITS` (rule R5). -/
abbrev triseBits : Nat := 6
/-- `DIV_BITS` (rule R5). -/
abbrev divBits : Nat := 12
/-- Bytes of one port access, `REGW / 8` (rule R7). -/
def regBytes : Nat := regw / 8

/-- `LAYOUT` as rules R78 to R84 fill it. PRESUMED (log 3): the spec takes it from the STM32F1 register map. -/
def layout : Layout where
  offCR := 0x00
  offOAR := 0x08
  offDR := 0x10
  offSR1 := 0x14
  offSR2 := 0x18
  offCCR := 0x1C
  offTRISE := 0x20
  pe := 0
  engc := 6
  ack := 10
  addr := 1
  btf := 2
  stopf := 4
  rxne := 6
  txe := 7
  berr := 8
  arlo := 9
  af := 10
  ovr := 11
  pecerr := 12
  timeout := 14
  smbalert := 15
  busy := 1
  tra := 2
  duty := 14
  fs := 15
  addmode := 15
  ccrv := { lo := 0, width := divBits }
  riseTime := { lo := 0, width := triseBits }
  add := { lo := 1, width := 7 }
  data := { lo := 0, width := 8 }

/-- `PERIPH_RESET_VALUES` (rule R34). PRESUMED (log 4): the STM32F1 family's values. -/
def periphResetValues : RegFile where
  cr := 0x0000
  trise := 0x0002
  ccr := 0x0000
  oar := 0x0000
  sr1 := 0x0000
  sr2 := 0x0000
  dr := 0x0000

/-- FREE VALUE: the open parameter `CYCLES_PER_US` before its sign is made sure of (rules R5, R116; log 6). -/
opaque cyclesPerUsFree : BitVec 32

/-- `CYCLES_PER_US`, open but positive (92_eei_decisions.md, open parameters; log 6). -/
def cyclesPerUs : BitVec 32 := if cyclesPerUsFree = 0 then 1 else cyclesPerUsFree

/-- FREE VALUE: what the environment does around the n-th port access when no move is scripted for it
(rules R34, R46: every value is a draw; log 1). -/
opaque freeMove : Nat → EnvMove

/-- FREE VALUE: the block state elements that the host's reset leaves unspecified, by number of the reset and of
the element (rules R35, R205; log 5). -/
opaque unspecified : Nat → Nat → BitVec 64

end Config

end Sys2Proof
end

