-- ==== Sys2Proof/Syntax.lean ====
section
/-! DEFINITION. The ten operations of the SEU (rule R72) and the fields of a command word (rules R70, R71). -/

namespace Sys2Proof

/-- The ten operations, one constructor per row of the opcode map (rule R72). -/
inductive Instr where
  /-- `INIT`: construct (rule R113). -/
  | init
  /-- `POLL`: one error-clear, decode and dispatch cycle (rule R171). -/
  | poll
  /-- `TCALC`: compute TimingParameters without touching anything (rule R101). -/
  | tcalc
  /-- `DECODE`: take one snapshot and classify it (rule R136). -/
  | decode
  /-- `ERRCLR`: detect and clear the sticky error flags (rule R126). -/
  | errclr
  /-- `SEND`: write one byte to the data register (rule R151). -/
  | send (imm8 : Byte)
  /-- `RECV`: read one byte from the data register (rule R152). -/
  | recv
  /-- `ADDRACK`: address-phase acknowledgment (rule R159). -/
  | addrack
  /-- `STOPACK`: stop-condition acknowledgment (rule R161). -/
  | stopack
  /-- `STOPCLR`: ADDRACK then STOPACK (rule R165). -/
  | stopclr
  deriving DecidableEq, Repr

/-- The fields of a 16-bit command word: `op` bits [15:12], `zero` bits [11:8], `imm8` bits [7:0]
(rules R70, R71). Any word has them; whether they spell an operation is `CommandFields.wf`. -/
structure CommandFields where
  op   : BitVec 4
  zero : BitVec 4
  imm8 : Byte
  deriving DecidableEq, Repr

/-- The selector of each operation (rule R72). -/
def Instr.selector : Instr → BitVec 4
  | .init => 0x1
  | .poll => 0x2
  | .tcalc => 0x3
  | .decode => 0x4
  | .errclr => 0x5
  | .send _ => 0x6
  | .recv => 0x7
  | .addrack => 0x8
  | .stopack => 0x9
  | .stopclr => 0xA

/-- The fields an operation is spelled with: format `C1` for SEND, `C0` for the rest (rule R70). -/
def Instr.fields (i : Instr) : CommandFields where
  op := i.selector
  zero := 0
  imm8 := match i with
    | .send b => b
    | .init | .poll | .tcalc | .decode | .errclr | .recv | .addrack | .stopack | .stopclr => 0

end Sys2Proof
end

