-- ==== Sys2Proof/WellFormed.lean ====
section
/-! DEFINITION. When the fields of a command word spell an operation: the three checks of rule R73, and the same
asked of an operation. An `Instr` cannot be ill formed (its one operand is a byte by type), so the checks that can
fail are those on `CommandFields`. -/

namespace Sys2Proof

/-- Selectors 0x0 and 0xB to 0xF select nothing (rule R73). -/
def CommandFields.selectorDefined (f : CommandFields) : Bool :=
  decide (1 ≤ f.op.toNat ∧ f.op.toNat ≤ 10)

/-- Bits [11:8] must be 0 (rules R71, R73). -/
def CommandFields.reservedZero (f : CommandFields) : Bool :=
  f.zero == 0

/-- Bits [7:0] must be 0 in format `C0`; format `C1` (SEND, selector 0x6) takes any byte (rules R70, R71, R73). -/
def CommandFields.immediateAllowed (f : CommandFields) : Bool :=
  f.op == 0x6 || f.imm8 == 0

/-- The fields spell one of the ten operations (rules R72, R73, R88). -/
def CommandFields.wf (f : CommandFields) : Bool :=
  f.selectorDefined && f.reservedZero && f.immediateAllowed

/-- An operation is well formed when the fields it is spelled with are. -/
def Instr.wf (i : Instr) : Bool := i.fields.wf

/-- `Instr.wf` as a proposition. -/
abbrev Instr.WellFormed (i : Instr) : Prop := i.wf = true

end Sys2Proof
end

