-- ==== Sys2Proof/Decode.lean ====
section
/-! DEFINITION. Decoding a 16-bit command word (rules R72, R73, R85, R88): total, rejecting an illegal word by name;
and after it the encoder, written from the same map. -/

namespace Sys2Proof

/-- Why a command word is illegal (rule R73). All three are refused with the one reason `IllegalCommand`. -/
inductive Illegal where
  /-- the selector is 0x0 or 0xB to 0xF -/
  | reservedSelector
  /-- bits [11:8] are not 0 -/
  | reservedBits
  /-- a `C0` word with bits [7:0] not 0 -/
  | unexpectedImmediate
  deriving DecidableEq, Repr

/-- The mnemonics of the opcode map (rule R72). -/
inductive Mnemonic where
  | INIT | POLL | TCALC | DECODE | ERRCLR | SEND | RECV | ADDRACK | STOPACK | STOPCLR
  deriving DecidableEq, Repr

/-- One row of the opcode map: `w` selects the row when `w &&& mask = pattern` (rule R72). -/
structure OpcodeRow where
  mnemonic : Mnemonic
  pattern  : Command
  mask     : Command
  deriving DecidableEq, Repr

/-- The opcode map, row for row (rule R72). -/
def opcodeTable : List OpcodeRow :=
  [ ⟨.INIT,    0x1000, 0xFFFF⟩,
    ⟨.POLL,    0x2000, 0xFFFF⟩,
    ⟨.TCALC,   0x3000, 0xFFFF⟩,
    ⟨.DECODE,  0x4000, 0xFFFF⟩,
    ⟨.ERRCLR,  0x5000, 0xFFFF⟩,
    ⟨.SEND,    0x6000, 0xFF00⟩,
    ⟨.RECV,    0x7000, 0xFFFF⟩,
    ⟨.ADDRACK, 0x8000, 0xFFFF⟩,
    ⟨.STOPACK, 0x9000, 0xFFFF⟩,
    ⟨.STOPCLR, 0xA000, 0xFFFF⟩ ]

/-- The fields of a word: `op` [15:12], `zero` [11:8], `imm8` [7:0] (rule R70). -/
def commandFields (w : Command) : CommandFields where
  op := w.extractLsb' 12 4
  zero := w.extractLsb' 8 4
  imm8 := w.extractLsb' 0 8

/-- The operation of a row, with the immediate byte where it has one (rule R71). -/
def Mnemonic.instr (m : Mnemonic) (imm8 : Byte) : Instr :=
  match m with
  | .INIT => .init
  | .POLL => .poll
  | .TCALC => .tcalc
  | .DECODE => .decode
  | .ERRCLR => .errclr
  | .SEND => .send imm8
  | .RECV => .recv
  | .ADDRACK => .addrack
  | .STOPACK => .stopack
  | .STOPCLR => .stopclr

/-- Does the word select this row? (rule R72) -/
def OpcodeRow.selects (r : OpcodeRow) (w : Command) : Bool :=
  w &&& r.mask == r.pattern

/-- The name of what is wrong with a word that selects no row (rule R73). -/
def illegalReason (w : Command) : Illegal :=
  if (commandFields w).selectorDefined = false then .reservedSelector
  else if (commandFields w).reservedZero = false then .reservedBits
  else .unexpectedImmediate

/-- Decoding: every 16-bit word is exactly one operation or illegal (rules R72, R73, R85, R88). -/
def decodeWord (w : Command) : Except Illegal Instr :=
  match opcodeTable.find? (fun r => r.selects w) with
  | some r => .ok (r.mnemonic.instr (commandFields w).imm8)
  | none => .error (illegalReason w)

/-- The command word of an operation: the row's pattern, with SEND's byte in bits [7:0] (rules R70 to R72). -/
def encode : Instr → Command
  | .init => 0x1000
  | .poll => 0x2000
  | .tcalc => 0x3000
  | .decode => 0x4000
  | .errclr => 0x5000
  | .send b => 0x6000 ||| b.setWidth 16
  | .recv => 0x7000
  | .addrack => 0x8000
  | .stopack => 0x9000
  | .stopclr => 0xA000

/-- The operation the decoder reads from a row's `nbits` bits `w`, every bit above `nbits` being 0. -/
def decodeTableWord (nbits w : Nat) : Option Instr :=
  match decodeWord (BitVec.ofNat 16 (w % 2 ^ nbits)) with
  | .ok i => some i
  | .error _ => none

/-- One hexadecimal digit in capitals (rule R86). -/
def hexDigit (d : BitVec 4) : String :=
  match d.toNat with
  | 0 => "0" | 1 => "1" | 2 => "2" | 3 => "3" | 4 => "4" | 5 => "5" | 6 => "6" | 7 => "7"
  | 8 => "8" | 9 => "9" | 10 => "A" | 11 => "B" | 12 => "C" | 13 => "D" | 14 => "E" | _ => "F"

/-- The textual form of an operation: its mnemonic in capitals, SEND with `#0xNN` (rule R86). -/
def Instr.text : Instr → String
  | .init => "INIT"
  | .poll => "POLL"
  | .tcalc => "TCALC"
  | .decode => "DECODE"
  | .errclr => "ERRCLR"
  | .send b => "SEND #0x" ++ hexDigit (b.extractLsb' 4 4) ++ hexDigit (b.extractLsb' 0 4)
  | .recv => "RECV"
  | .addrack => "ADDRACK"
  | .stopack => "STOPACK"
  | .stopclr => "STOPCLR"

end Sys2Proof
end

