-- ==== Sys2Proof/Machine/State.lean ====
section
/-! DEFINITION. The state of the model as plain data: the block state of the SEU (rule R10), the peripheral behind the
register port (rules R20, R32), the ports (rules R70, R74, R76, R201), and what the outside world will do (the host's
actions, the environment's moves). Fault and Refusal are what stops the MODEL; the SEU's own faults and refusals are
results of a command (rules R186, R190), never a stop. -/

namespace Sys2Proof.Machine

/-- The life-cycle phase `S.PHASE` (rule R10). -/
inductive Phase where
  | unconfigured | ready | failed
  deriving DecidableEq, Repr

/-- The block state: the ten elements of rule R10 and no others. -/
structure Block where
  /-- `S.PHASE` -/
  phase       : Phase
  /-- `S.TRISE_VAL`, rise-time register value -/
  triseVal    : BitVec Config.triseBits
  /-- `S.DIV_VAL`, rate-divisor value -/
  divVal      : BitVec Config.divBits
  /-- `S.FS`, fast-mode flag -/
  fs          : Bool
  /-- `S.DUTY`, low-duty flag -/
  duty        : Bool
  /-- `S.OWN_ADDR`, the 7-bit address in bits [7:1] -/
  ownAddr     : Byte
  /-- `S.T_START`, scaled start-condition timeout -/
  tStart      : BitVec 64
  /-- `S.N_START_RETRY`, start retry count -/
  nStartRetry : BitVec 32
  /-- `S.T_ADDR`, scaled address-phase timeout -/
  tAddr       : BitVec 64
  /-- `S.T_DATA`, scaled data-phase timeout -/
  tData       : BitVec 64
  deriving DecidableEq, Repr

/-- The input ports of rule R74. -/
structure Inputs where
  cfgClockHz     : BitVec 32
  cfgModeFast    : Bool
  cfgModeDuty    : Bool
  cfgFreqHz      : BitVec 32
  cfgOwnAddr     : BitVec 7
  cfgTStartUs    : BitVec 32
  cfgNStartRetry : BitVec 32
  cfgTAddrUs     : BitVec 32
  cfgTDataUs     : BitVec 32
  txData         : Byte
  deriving DecidableEq, Repr

/-- The `status` of a result record (rule R76). -/
inductive Status where
  | ok | refused | fault
  deriving DecidableEq, Repr

/-- The result record of a command (rule R76). A one-bit field is a Bool. -/
structure Result where
  status  : Status
  code    : BitVec 4
  event   : BitVec 3
  errs    : BitVec 7
  rxValid : Bool
  rxByte  : Byte
  txReq   : Bool
  txFirst : Bool
  iters   : BitVec 4
  triseN  : BitVec 32
  divN    : BitVec 32
  fs      : Bool
  duty    : Bool
  deriving DecidableEq, Repr

/-- One access on the register port: a read with what it was answered, or a write (rule R40). -/
inductive Access where
  | read (r : Reg) (v : Word)
  | write (r : Reg) (v : Word)
  deriving DecidableEq, Repr

/-- What the host does next (rules R70, R203, R205). -/
inductive HostAction where
  /-- the host's reset input, between two commands -/
  | reset
  /-- a command word with the inputs in force; `resetAfter = some k` says that the host asserts its reset input
  during the command, when it has done `k` of its outward actions (port accesses and sink bytes), or has done fewer
  and is about to return its result record (rule R205; log 8) -/
  | command (word : Command) (inputs : Inputs) (resetAfter : Option Nat)
  deriving DecidableEq, Repr

/-- The straps of rule R5 that the spec leaves open or selectable: set for one SEU, written by no step. -/
structure Straps where
  /-- `EXPOSE_COMPONENT_OPS` -/
  exposeComponentOps : Bool
  /-- `CYCLES_PER_US` -/
  cyclesPerUs        : BitVec 32
  deriving DecidableEq, Repr

/-- The whole state. -/
structure State where
  /-- the SEU's own state (rule R10) -/
  block      : Block
  /-- the peripheral, as its last access left it (rules R20, R32, R33) -/
  per        : Periph
  /-- the input ports (rule R74; log 13) -/
  inputs     : Inputs
  /-- the result record (rule R76): the last one returned, or the one being filled in -/
  result     : Result
  /-- has the last host action been answered with a result record? (rule R203: a reset is not; log 11) -/
  returned   : Bool
  /-- every byte emitted on the diagnostic sink, oldest first (rule R201; log 12) -/
  sink       : List Byte
  /-- every access made on the register port, oldest first (rules R43, R216; log 12) -/
  trace      : List Access
  /-- what the host will do, next first (rules R18, R203; log 9) -/
  host       : List HostAction
  /-- what the environment will do around the coming port accesses, next first (rule R46; log 1) -/
  env        : List EnvMove
  /-- MODEL'S OWN: port accesses made so far, the index of the free moves (log 1) -/
  draws      : Nat
  /-- MODEL'S OWN: host resets so far, the index of the unspecified values (log 5) -/
  resets     : Nat
  /-- MODEL'S OWN: the running command's reset input (rule R205, log 8) -/
  resetAfter : Option Nat
  /-- the straps (rule R5; log 6, log 14) -/
  straps     : Straps
  deriving DecidableEq, Repr

/-- What stops the model. -/
inductive Fault where
  /-- Raised by `memRead` and `memWrite` alone, for an offset that is no register's or for an access that is not
  one whole register: the port refuses "any other address as unreachable" (rules R40, R42). No operation of the
  SEU raises it (log 15). Safe: the model stops where the spec gives no meaning. -/
  | unreachableAddress (addr : Nat)
  deriving DecidableEq, Repr

/-- Where the model gives an instruction no meaning. -/
inductive Refusal where
  /-- Raised by an arm of `exec` whose instruction has no meaning yet; no arm of this model raises it. Safe: the
  model stops. -/
  | notModelled (mnemonic : String)
  deriving DecidableEq, Repr

/-- The result record with every field 0 (rule R76: fields not mentioned by an operation's rule are 0). -/
def Result.zero : Result where
  status := .ok
  code := 0
  event := 0
  errs := 0
  rxValid := false
  rxByte := 0
  txReq := false
  txFirst := false
  iters := 0
  triseN := 0
  divN := 0
  fs := false
  duty := false

/-- All input ports at 0. -/
def Inputs.zero : Inputs where
  cfgClockHz := 0
  cfgModeFast := false
  cfgModeDuty := false
  cfgFreqHz := 0
  cfgOwnAddr := 0
  cfgTStartUs := 0
  cfgNStartRetry := 0
  cfgTAddrUs := 0
  cfgTDataUs := 0
  txData := 0

/-- The machine right after power-on reset: `S.PHASE` is `Unconfigured` (rules R35, R205). Every other block
element is unspecified there; the model names 0 (DESIGN CHOICE, log 2). The peripheral holds
`PERIPH_RESET_VALUES` (rule R34; PRESUMED, log 4). Nothing has been presented, answered, emitted or accessed. -/
def State.reset : State where
  block :=
    { phase := .unconfigured
      triseVal := 0
      divVal := 0
      fs := false
      duty := false
      ownAddr := 0
      tStart := 0
      nStartRetry := 0
      tAddr := 0
      tData := 0 }
  per := { regs := Config.periphResetValues, armA := false, armS := false, txByte := 0 }
  inputs := Inputs.zero
  result := Result.zero
  returned := false
  sink := []
  trace := []
  host := []
  env := []
  draws := 0
  resets := 0
  resetAfter := none
  straps := { exposeComponentOps := true, cyclesPerUs := Config.cyclesPerUs }

end Sys2Proof.Machine
end

