-- ==== Sys2Proof/Machine/Flags.lean ====
section
/-! DEFINITION. Masks and fields of the peripheral registers (rules R79 to R84), `ErrBits` (rule R28), the
classifier's snapshot (rules R137, R144), the events and their codes (rule R77), and the code numbers of phases,
statuses, faults and refusals (rules R10, R76, R186, R190). -/

namespace Sys2Proof.Machine

/-- The `REGW`-bit mask of one bit position. -/
def bitMask (i : Nat) : Word := BitVec.ofNat Config.regw (2 ^ i)

/-- The register value with `x` in a field and every other bit 0; what does not fit the field is dropped. -/
def BitField.place (f : BitField) (x : Nat) : Word := BitVec.ofNat Config.regw (x % 2 ^ f.width * 2 ^ f.lo)

/-- The number in a field of a register value. -/
def BitField.read (f : BitField) (v : Word) : Nat := v.toNat / 2 ^ f.lo % 2 ^ f.width

/-- The byte in the data register's field: bits [7:0] (rules R25, R84). -/
def drByte (v : Word) : Byte := BitVec.ofNat 8 (BitField.read Config.layout.data v)

/-- `PE_M` (rule R79). -/
def peMask : Word := bitMask Config.layout.pe
/-- `ENGC_M` (rule R79). -/
def engcMask : Word := bitMask Config.layout.engc
/-- `ACK_M` (rule R79). -/
def ackMask : Word := bitMask Config.layout.ack
/-- The mask of `ADDR` (rule R80). -/
def addrMask : Word := bitMask Config.layout.addr
/-- The mask of `STOPF` (rule R80). -/
def stopfMask : Word := bitMask Config.layout.stopf

/-- `ERR_MASK`: exactly the seven sticky error flags (rules R28, R80). -/
def errMask : Word :=
  bitMask Config.layout.berr ||| bitMask Config.layout.arlo ||| bitMask Config.layout.af
    ||| bitMask Config.layout.ovr ||| bitMask Config.layout.timeout ||| bitMask Config.layout.pecerr
    ||| bitMask Config.layout.smbalert

/-- `CR.PE` (rules R21, R79). -/
def crPE (v : Word) : Bool := v.getLsbD Config.layout.pe
/-- `CR.ENGC` (rules R21, R79). -/
def crENGC (v : Word) : Bool := v.getLsbD Config.layout.engc
/-- `CR.ACK` (rules R21, R79). -/
def crACK (v : Word) : Bool := v.getLsbD Config.layout.ack
/-- `SR1.ADDR` (rules R26, R80). -/
def sr1ADDR (v : Word) : Bool := v.getLsbD Config.layout.addr
/-- `SR1.BTF` (rules R26, R80). -/
def sr1BTF (v : Word) : Bool := v.getLsbD Config.layout.btf
/-- `SR1.STOPF` (rules R26, R80). -/
def sr1STOPF (v : Word) : Bool := v.getLsbD Config.layout.stopf
/-- `SR1.RXNE` (rules R26, R80). -/
def sr1RXNE (v : Word) : Bool := v.getLsbD Config.layout.rxne
/-- `SR1.TXE` (rules R26, R80). -/
def sr1TXE (v : Word) : Bool := v.getLsbD Config.layout.txe
/-- `SR2.BUSY` (rules R27, R81). -/
def sr2BUSY (v : Word) : Bool := v.getLsbD Config.layout.busy
/-- `SR2.TRA` (rules R27, R81). -/
def sr2TRA (v : Word) : Bool := v.getLsbD Config.layout.tra

/-- `ErrBits(v)`: bit 0 `BERR`, 1 `ARLO`, 2 `AF`, 3 `OVR`, 4 `TIMEOUT`, 5 `PECERR`, 6 `SMBALERT` (rule R28). -/
def errBits (v : Word) : BitVec 7 :=
  BitVec.ofBool (v.getLsbD Config.layout.smbalert) ++ BitVec.ofBool (v.getLsbD Config.layout.pecerr)
    ++ BitVec.ofBool (v.getLsbD Config.layout.timeout) ++ BitVec.ofBool (v.getLsbD Config.layout.ovr)
    ++ BitVec.ofBool (v.getLsbD Config.layout.af) ++ BitVec.ofBool (v.getLsbD Config.layout.arlo)
    ++ BitVec.ofBool (v.getLsbD Config.layout.berr)

/-- The seven inputs of the classifier (rule R137). -/
structure Snapshot where
  busy  : Bool
  addr  : Bool
  tra   : Bool
  txe   : Bool
  rxne  : Bool
  btf   : Bool
  stopf : Bool
  deriving DecidableEq, Repr

/-- The snapshot of one read of SR1 and one read of SR2 (rules R136, R142). -/
def snapshot (s1 s2 : Word) : Snapshot where
  busy := sr2BUSY s2
  addr := sr1ADDR s1
  tra := sr2TRA s2
  txe := sr1TXE s1
  rxne := sr1RXNE s1
  btf := sr1BTF s1
  stopf := sr1STOPF s1

/-- The snapshot packed as a 7-bit index, `BUSY` in bit 6 down to `STOPF` in bit 0 (rule R144). -/
def Snapshot.index (x : Snapshot) : BitVec 7 :=
  BitVec.ofBool x.busy ++ BitVec.ofBool x.addr ++ BitVec.ofBool x.tra ++ BitVec.ofBool x.txe
    ++ BitVec.ofBool x.rxne ++ BitVec.ofBool x.btf ++ BitVec.ofBool x.stopf

/-- ProtocolEvent: six events and the absence (rule R77). -/
inductive Event where
  | absence
  | receiverAddressMatched
  | transmitterAddressMatched
  | byteReceived
  | byteTransmitting
  | byteTransmitted
  | stopDetected
  deriving DecidableEq, Repr

/-- `EventCode` (rule R77). -/
def Event.code : Event → BitVec 3
  | .absence => 0
  | .receiverAddressMatched => 1
  | .transmitterAddressMatched => 2
  | .byteReceived => 3
  | .byteTransmitting => 4
  | .byteTransmitted => 5
  | .stopDetected => 6

/-- The SEU's faults (rule R186). -/
inductive SeuFault where
  /-- `ConfigError(FreqTooHigh)`, raised by INIT and TCALC -/
  | freqTooHigh
  /-- `ConfigError(FreqZero)`, raised by INIT and TCALC -/
  | freqZero
  /-- `ConfigError(FieldOverflow)`, raised by INIT -/
  | fieldOverflow
  /-- `DecodeGap`: reserved, raised by nothing (rule R188) -/
  | decodeGap
  /-- `StopClearNonConvergence`, raised by STOPACK, and through it by STOPCLR and POLL -/
  | stopClearNonConvergence
  deriving DecidableEq, Repr

/-- The fault codes (rule R186). -/
def SeuFault.code : SeuFault → BitVec 4
  | .freqTooHigh => 1
  | .freqZero => 2
  | .fieldOverflow => 3
  | .decodeGap => 4
  | .stopClearNonConvergence => 5

/-- The reasons a command is refused (rule R190). -/
inductive Reason where
  | illegalCommand
  | notReady
  | alreadyConfigured
  | illegalMode
  | componentOpsHidden
  deriving DecidableEq, Repr

/-- The refusal codes (rule R190). -/
def Reason.code : Reason → BitVec 4
  | .illegalCommand => 1
  | .notReady => 2
  | .alreadyConfigured => 3
  | .illegalMode => 4
  | .componentOpsHidden => 5

/-- The two bits of `status` (rule R76). -/
def Status.code : Status → BitVec 2
  | .ok => 0
  | .refused => 1
  | .fault => 2

/-- The two bits of `S.PHASE` (rule R10). -/
def Phase.code : Phase → BitVec 2
  | .unconfigured => 0
  | .ready => 1
  | .failed => 2

end Sys2Proof.Machine
end

