-- ==== Sys2Proof/Machine/Operands.lean ====
section
/-! DEFINITION. Operand assembly (rules R75, R87): the BusMode from its three ports, the own address, the values of
the timing and address registers (rules R82 to R84), the data-register value, the scaled timeouts (rule R116). -/

namespace Sys2Proof.Machine

/-- `dutyCycle` of BusMode `Fast` (rule R75). -/
inductive DutyCycle where
  | ratio2to1 | ratio16to9
  deriving DecidableEq, Repr

/-- BusMode: `Standard(frequency)` or `Fast(frequency, dutyCycle)`, the frequency in hertz (rule R75). -/
inductive BusMode where
  | standard (frequency : Nat)
  | fast (frequency : Nat) (dutyCycle : DutyCycle)
  deriving DecidableEq, Repr

/-- The BusMode the ports spell, or none for the spelling that is refused `IllegalMode` (rule R75). -/
def busMode (i : Inputs) : Option BusMode :=
  match i.cfgModeFast, i.cfgModeDuty with
  | false, false => some (.standard i.cfgFreqHz.toNat)
  | false, true => none
  | true, false => some (.fast i.cfgFreqHz.toNat .ratio2to1)
  | true, true => some (.fast i.cfgFreqHz.toNat .ratio16to9)

/-- `S.OWN_ADDR = cfg_own_addr ++ 0` (rules R12, R87). -/
def ownAddress (a : BitVec 7) : Byte := a ++ (0 : BitVec 1)

/-- The `OAR` value for `a8` = `S.OWN_ADDR`: its address, bits [7:1], in the address field, and every other bit 0, the
addressing-mode bit among them (rules R84, R120, R121). -/
def oarValue (a8 : Byte) : Word :=
  BitField.place Config.layout.add (a8.toNat / 2) &&& ~~~bitMask Config.layout.addmode

/-- The `TRISE` value: the rise-time field and every other bit 0 (rules R83, R110). -/
def triseValue (t : BitVec Config.triseBits) : Word := BitField.place Config.layout.riseTime t.toNat

/-- `CcrValue(div, fs, duty) = (fs << 15) | (duty << 14) | zext_16(div[11:0])` (rules R82, R111). -/
def ccrValue (div : BitVec Config.divBits) (fs duty : Bool) : Word :=
  (if fs then bitMask Config.layout.fs else 0) ||| (if duty then bitMask Config.layout.duty else 0)
    ||| BitField.place Config.layout.ccrv div.toNat

/-- The `DR` value SEND writes: the byte in its field, every other bit 0 (rules R25, R151). -/
def drValue (b : Byte) : Word := BitField.place Config.layout.data b.toNat

/-- A timeout in microseconds scaled by `CYCLES_PER_US` and stored in 64 bits (rules R87, R116). -/
def scaledTimeout (us cyclesPerUs : BitVec 32) : BitVec 64 :=
  BitVec.ofNat 64 (us.toNat * cyclesPerUs.toNat)

end Sys2Proof.Machine
end

