-- ==== Sys2Proof/Machine/Peripheral.lean ====
section
/-! DEFINITION. The environment: how the peripheral answers and reacts when it does what rules R48 to R56 say, and those
rules as named premises about ONE port access (rule R57). The port never relies on them: a move of the environment
may answer anything and react in any way (rule R46, `EnvMove`). -/

namespace Sys2Proof.Machine

/-- The contents of a register. -/
def getReg (f : RegFile) (r : Reg) : Word :=
  match r with
  | .CR => f.cr
  | .TRISE => f.trise
  | .CCR => f.ccr
  | .OAR => f.oar
  | .SR1 => f.sr1
  | .SR2 => f.sr2
  | .DR => f.dr

/-- A register file with one register replaced. -/
def setReg (f : RegFile) (r : Reg) (v : Word) : RegFile :=
  match r with
  | .CR => { f with cr := v }
  | .TRISE => { f with trise := v }
  | .CCR => { f with ccr := v }
  | .OAR => { f with oar := v }
  | .SR1 => { f with sr1 := v }
  | .SR2 => { f with sr2 := v }
  | .DR => { f with dr := v }

/-- The registers after the bus engine's steps (rule R46). -/
def engineRegs : List (Reg × Word) → RegFile → RegFile
  | [], f => f
  | (r, v) :: rest, f => engineRegs rest (setReg f r v)

/-- The peripheral after the bus engine's steps; the hidden elements are as they were (rules R32, R46). -/
def engineStep (chg : List (Reg × Word)) (p : Periph) : Periph :=
  { p with regs := engineRegs chg p.regs }

/-- The reaction to a read, when the premises hold: SR1 arms both clears, SR2 consumes the address-match clear and
clears `ADDR`; a read of any other register changes nothing (rules R32, R43, R51, R53). What a read of DR does to the
status bits is not in the source (rule R55), nor is what it does out of phase (rule R55, U4): here a read of DR changes
nothing, in phase or out of it, and any move may say otherwise (DESIGN CHOICE, log 7). -/
def readReaction (r : Reg) (p : Periph) : Periph :=
  match r with
  | .SR1 => { p with armA := true, armS := true }
  | .SR2 =>
    if p.armA then { p with regs := { p.regs with sr1 := p.regs.sr1 &&& ~~~addrMask }, armA := false }
    else p
  | .CR | .TRISE | .CCR | .OAR | .DR => p

/-- What a write of CR leaves in CR: the value written, but `ACK` is not left set by a write that finds or leaves
`PE` at 0 (rule R54, premise `AckNeedsPE`; DESIGN CHOICE, log 7). -/
def crAfterWrite (old v : Word) : Word :=
  if crPE old && crPE v then v else v &&& ~~~ackMask

/-- The reaction to a write, when the premises hold: SR1 loses every error flag written 0 and nothing else (rules
R49, R50, R56); CR takes the value (rule R54) and, when armed, the stop-detected clear is consumed and `STOPF`
cleared (rules R32, R52); TRISE and CCR take the value only while `PE` is 0 (rule R54); OAR takes the value; DR hands
over the byte to transmit (rule R55); SR2 is never written by the SEU (rule R27) and keeps its value.
DESIGN CHOICE (log 7), where the spec is silent: a write of CR with `PE` = 0 (the first write of rule R108) clears
neither `ADDR` nor, unless armed, `STOPF` (N13, G15); a write of DR out of phase (rule R55, U4) hands the byte over and
changes nothing else, as in phase. -/
def writeReaction (r : Reg) (v : Word) (p : Periph) : Periph :=
  match r with
  | .SR1 => { p with regs := { p.regs with sr1 := p.regs.sr1 &&& (v ||| ~~~errMask) } }
  | .CR =>
    if p.armS then
      { p with
        regs := { p.regs with cr := crAfterWrite p.regs.cr v, sr1 := p.regs.sr1 &&& ~~~stopfMask }
        armS := false }
    else { p with regs := { p.regs with cr := crAfterWrite p.regs.cr v } }
  | .TRISE => if crPE p.regs.cr then p else { p with regs := { p.regs with trise := v } }
  | .CCR => if crPE p.regs.cr then p else { p with regs := { p.regs with ccr := v } }
  | .OAR => { p with regs := { p.regs with oar := v } }
  | .DR => { p with txByte := drByte v }
  | .SR2 => p

/-- The reaction to an access, when the premises of rule R57 hold. -/
def reaction (a : Access) (p : Periph) : Periph :=
  match a with
  | .read r _ => readReaction r p
  | .write r v => writeReaction r v p

/-- One port access as a premise sees it: the peripheral as the previous access left it, as the access found it, the
access, and the peripheral right after it. -/
structure PortEvent where
  previous : Periph
  found    : Periph
  access   : Access
  left     : Periph
  deriving DecidableEq, Repr

/-- `StickyErrors` (rules R48, R132): the bus engine clears no error flag; a read and a write of another register leave
every error flag as it is, so that nothing sets one but the engine; a write of SR1 clears none whose bit it writes 1 and
sets none whose bit it writes 0. Whether a 1 written to a clear flag sets it is left open, as rule R49 leaves it. -/
def StickyErrors (e : PortEvent) : Prop :=
  e.previous.regs.sr1 &&& errMask &&& ~~~e.found.regs.sr1 = 0 ∧
  (∀ r v, e.access = .read r v → e.left.regs.sr1 &&& errMask = e.found.regs.sr1 &&& errMask) ∧
  (∀ r v, e.access = .write r v → r ≠ .SR1 → e.left.regs.sr1 &&& errMask = e.found.regs.sr1 &&& errMask) ∧
  (∀ v, e.access = .write .SR1 v → e.found.regs.sr1 &&& errMask &&& v &&& ~~~e.left.regs.sr1 = 0 ∧
    e.left.regs.sr1 &&& errMask &&& ~~~v &&& ~~~e.found.regs.sr1 = 0)

/-- `ClearByWriteZero` (rule R49): a write of SR1 clears every error flag whose bit is written 0. -/
def ClearByWriteZero (e : PortEvent) : Prop :=
  ∀ v, e.access = .write .SR1 v → e.left.regs.sr1 &&& errMask &&& ~~~v = 0

/-- `ClearOfClearIsNoOp` (rule R50): writing 0 to an error flag that reads 0 changes nothing, in that flag or anywhere
else in the peripheral. Said of one access, which cannot tell by which bit of the written value a change was made:
a write of SR1 with a 0 for an error flag that reads 0 changes nothing but error flags that read 1 (log 19). -/
def ClearOfClearIsNoOp (e : PortEvent) : Prop :=
  ∀ v, e.access = .write .SR1 v → errMask &&& ~~~v &&& ~~~e.found.regs.sr1 ≠ 0 →
    e.left.regs.sr1 ||| (errMask &&& e.found.regs.sr1) = e.found.regs.sr1 ∧
    { e.left with regs := { e.left.regs with sr1 := e.found.regs.sr1 } } = e.found

/-- `StatusBitsIgnoreWrites` (rule R56): a write of SR1 touches no bit outside `ERR_MASK` and neither armed
element. -/
def StatusBitsIgnoreWrites (e : PortEvent) : Prop :=
  ∀ v, e.access = .write .SR1 v →
    e.left.regs.sr1 &&& ~~~errMask = e.found.regs.sr1 &&& ~~~errMask ∧
    e.left.armA = e.found.armA ∧ e.left.armS = e.found.armS

/-- `AddrClearSeq` (rules R32, R51): a read of SR1 arms the address-match clear, and a read of SR2 that finds it
armed clears `ADDR`. -/
def AddrClearSeq (e : PortEvent) : Prop :=
  (∀ v, e.access = .read .SR1 v → e.left.armA = true) ∧
  (∀ v, e.access = .read .SR2 v → e.found.armA = true → sr1ADDR e.left.regs.sr1 = false)

/-- `StopClearSeq` (rules R32, R52): a read of SR1 arms the stop-detected clear, and a write of CR that finds it
armed clears `STOPF`. -/
def StopClearSeq (e : PortEvent) : Prop :=
  (∀ v, e.access = .read .SR1 v → e.left.armS = true) ∧
  (∀ v, e.access = .write .CR v → e.found.armS = true → sr1STOPF e.left.regs.sr1 = false)

/-- `AckNeedsPE` (rule R54): a write that sets `ACK` while `PE` is 0 does not leave `ACK` set. -/
def AckNeedsPE (e : PortEvent) : Prop :=
  ∀ v, e.access = .write .CR v → crPE e.found.regs.cr = false → crACK e.left.regs.cr = false

/-- `TimingNeedsDisabled` (rule R54): TRISE and CCR take a written value only while `PE` is 0. -/
def TimingNeedsDisabled (e : PortEvent) : Prop :=
  (∀ v, e.access = .write .TRISE v →
    e.left.regs.trise = if crPE e.found.regs.cr then e.found.regs.trise else v) ∧
  (∀ v, e.access = .write .CCR v →
    e.left.regs.ccr = if crPE e.found.regs.cr then e.found.regs.ccr else v)

/-- `CrReadsArePure` (rules R43, R57): a read of CR disturbs nothing. -/
def CrReadsArePure (e : PortEvent) : Prop :=
  ∀ v, e.access = .read .CR v → e.left = e.found

/-- All the premises of rule R57 together, for one access. -/
structure Premises (e : PortEvent) : Prop where
  stickyErrors           : StickyErrors e
  clearByWriteZero       : ClearByWriteZero e
  clearOfClearIsNoOp     : ClearOfClearIsNoOp e
  statusBitsIgnoreWrites : StatusBitsIgnoreWrites e
  addrClearSeq           : AddrClearSeq e
  stopClearSeq           : StopClearSeq e
  ackNeedsPE             : AckNeedsPE e
  timingNeedsDisabled    : TimingNeedsDisabled e
  crReadsArePure         : CrReadsArePure e

end Sys2Proof.Machine
end

