-- ==== Sys2Proof/Machine/Ops.lean ====
section
/-! DEFINITION. The shared operations: the register port (rules R7, R40 to R45), the result record (rule R76), raising a
fault and ending a command (rules R186, R192), the host's reset (rules R35, R205), refusing a command and the gating
order (rule R190). A meaning is a sequence of port accesses written in `Op`, run by `runOp`. -/

namespace Sys2Proof.Machine

/-- Why a running operation ends before its last line. -/
inductive Stop where
  /-- `raise` of a fault of the SEU (rules R7, R192) -/
  | raised (f : SeuFault)
  /-- the host's reset input abandons the operation (rule R205) -/
  | reset
  /-- the port was given an address that is no register's (rule R42) -/
  | unreachable (addr : Nat)
  deriving DecidableEq, Repr

/-- A part of an operation: it reads and changes the state, and may stop; what was done stays done (rule R192). -/
abbrev Op := EStateM Stop State

/-- The result of a part of an operation. -/
abbrev OpResult := EStateM.Result Stop State

/-! ### The environment's side of one access -/

/-- What the environment does around the next port access: the next scripted move, or a free one (log 1). -/
def State.move (s : State) : EnvMove :=
  match s.env with
  | [] => Config.freeMove s.draws
  | m :: _ => m

/-- The peripheral as the next access finds it: the bus engine has stepped (rule R46). -/
def State.found (s : State) : Periph := engineStep s.move.engine s.per

/-- What a read of `r`, were it the next access, is answered (rules R43, R46). -/
def State.answer (s : State) (r : Reg) : Word := getReg s.found.regs r

/-- The peripheral right after the access `a`, were it the next: the reaction of rules R48 to R56, or whatever else
the environment's move says (rule R57). -/
def State.left (s : State) (a : Access) : Periph :=
  match s.move.react with
  | none => reaction a s.found
  | some p => p

/-- The next access as the premises of rule R57 see it. -/
def State.event (s : State) (a : Access) : PortEvent where
  previous := s.per
  found := s.found
  access := a
  left := s.left a

/-- The inputs after the host's change of `tx_data`, if it makes one (rules R70, R176). -/
def State.inputsAfter (s : State) : Inputs :=
  match s.move.tx with
  | none => s.inputs
  | some b => { s.inputs with txData := b }

/-- The state after one performed port access: the access has taken its full effect before anything else happens
(rule R45). -/
def State.access (s : State) (a : Access) : State :=
  { s with
    per := s.left a
    inputs := s.inputsAfter
    trace := s.trace ++ [a]
    env := s.env.tail
    draws := s.draws + 1
    resetAfter := s.resetAfter.map (fun k => k - 1) }

/-! ### The register port -/

/-- Byte offset of a register (rule R78). -/
def offset (r : Reg) : Nat :=
  match r with
  | .CR => Config.layout.offCR
  | .TRISE => Config.layout.offTRISE
  | .CCR => Config.layout.offCCR
  | .OAR => Config.layout.offOAR
  | .SR1 => Config.layout.offSR1
  | .SR2 => Config.layout.offSR2
  | .DR => Config.layout.offDR

/-- The register at a byte offset, if there is one (rules R30, R42, R78). -/
def regAt (addr : Nat) : Option Reg :=
  [Reg.CR, .TRISE, .CCR, .OAR, .SR1, .SR2, .DR].find? (fun r => offset r == addr)

/-- One read of a register on the port; a reset input that is due comes first (rules R40, R43, R205). -/
def portRead (r : Reg) : Op Word := fun s =>
  match s.resetAfter with
  | some 0 => .error .reset s
  | _ => .ok (s.answer r) (s.access (.read r (s.answer r)))

/-- One write of a register on the port; a reset input that is due comes first (rules R40, R43, R205). -/
def portWrite (r : Reg) (v : Word) : Op Unit := fun s =>
  match s.resetAfter with
  | some 0 => .error .reset s
  | _ => .ok () (s.access (.write r v))

/-- The register an access of `n` bytes at `addr` reaches: one whole register at its own offset, nothing narrower,
wider or elsewhere (rules R40, R42). -/
def reached (addr n : Nat) : Option Reg :=
  if n = Config.regBytes then regAt addr else none

/-- `MemRead(addr, n)` (rule R7). -/
def memRead (addr n : Nat) : Op Word :=
  match reached addr n with
  | some r => portRead r
  | none => throw (.unreachable addr)

/-- `MemWrite(addr, n, v)` (rule R7). -/
def memWrite (addr n : Nat) (v : Word) : Op Unit :=
  match reached addr n with
  | some r => portWrite r v
  | none => throw (.unreachable addr)

/-- `RegRead(r)` is `MemRead(OFFSET(r), 2)` (rule R7). -/
def regRead (r : Reg) : Op Word := memRead (offset r) Config.regBytes

/-- `RegWrite(r, v)` is `MemWrite(OFFSET(r), 2, v)` (rule R7). -/
def regWrite (r : Reg) (v : Word) : Op Unit := memWrite (offset r) Config.regBytes v

/-! ### The result record, the sink, the block state -/

/-- A state with the result record changed (rule R76). -/
def State.withResult (s : State) (f : Result → Result) : State := { s with result := f s.result }

/-- A state with the block state changed (rule R10). -/
def State.withBlock (s : State) (f : Block → Block) : State := { s with block := f s.block }

/-- A state with one more byte on the diagnostic sink (rule R201). -/
def State.emitted (s : State) (b : Byte) : State :=
  { s with sink := s.sink ++ [b], resetAfter := s.resetAfter.map (fun k => k - 1) }

/-- `Result.field <- v` (rule R7). -/
def setResult (f : Result → Result) : Op Unit := modify (fun s => s.withResult f)

/-- `S.NAME <- v` (rule R7). -/
def setBlock (f : Block → Block) : Op Unit := modify (fun s => s.withBlock f)

/-- `emit SINK(b)`; a reset input that is due comes first (rules R7, R201, R205). -/
def emitSink (b : Byte) : Op Unit := fun s =>
  match s.resetAfter with
  | some 0 => .error .reset s
  | _ => .ok () (s.emitted b)

/-- `raise f`: the operation ends here and performs no further access (rules R7, R192). -/
def raise (f : SeuFault) : Op Unit := throw (.raised f)

/-! ### Beginning and ending a command -/

/-- A command is accepted: its result record starts with every field 0 (rule R76). -/
def State.begun (s : State) : State := { s with result := Result.zero, returned := false }

/-- What the host's reset leaves of the block state: the phase is `Unconfigured`, every other element is a free value
(rules R35, R205; log 5). -/
def unspecifiedBlock (n : Nat) : Block where
  phase := .unconfigured
  triseVal := (Config.unspecified n 0).setWidth Config.triseBits
  divVal := (Config.unspecified n 1).setWidth Config.divBits
  fs := (Config.unspecified n 2).getLsbD 0
  duty := (Config.unspecified n 3).getLsbD 0
  ownAddr := (Config.unspecified n 4).setWidth 8
  tStart := Config.unspecified n 5
  nStartRetry := (Config.unspecified n 6).setWidth 32
  tAddr := Config.unspecified n 7
  tData := Config.unspecified n 8

/-- The host's reset: the phase becomes `Unconfigured`, every other block element unspecified; the peripheral is not
touched, accesses already made stay made, and the host gets nothing back (rules R203, R205, R206). -/
def State.hostReset (s : State) : State :=
  { s with
    block := unspecifiedBlock s.resets
    result := Result.zero
    returned := false
    resets := s.resets + 1
    resetAfter := none }

/-- A command ends: its result record goes to the host (rules R76, R192), unless the host has asserted its reset input
during the command, which then resets the block before anything is returned (rules R203, R205; log 8). -/
def State.ended (s : State) (st : Status) (code : BitVec 4) : State :=
  match s.resetAfter with
  | none =>
    { s with
      result := { s.result with status := st, code := code }
      returned := true
      resetAfter := none }
  | some _ => s.hostReset

/-- A command is refused: no register access, no change of the block state, every result field but `status` and
`code` 0 (rule R190). -/
def State.refusedFor (s : State) (r : Reason) : State := s.begun.ended .refused r.code

/-- What a finished or stopped operation makes of the command: `Ok`; a fault, with the fields set before it kept
(rule R192); the host's reset, where its input was asserted meanwhile (rule R205); or a stop of the model at an unreachable address (rule R42). -/
def concluded : OpResult Unit → Host.Outcome State Fault Refusal
  | .ok _ t => .next (t.ended .ok 0)
  | .error (.raised f) t => .next (t.ended .fault f.code)
  | .error .reset t => .next t.hostReset
  | .error (.unreachable a) _ => .fault (.unreachableAddress a)

/-- Run an accepted command to its end (rule R18). -/
def runOp (op : Op Unit) (s : State) : Host.Outcome State Fault Refusal := concluded (op s.begun)

/-- Refuse a command (rule R190). -/
def refuse (r : Reason) (s : State) : Host.Outcome State Fault Refusal := .next (s.refusedFor r)

/-! ### Gating -/

/-- The eight component operations (rules R72, R190). -/
def isComponent : Instr → Bool
  | .init | .poll => false
  | .tcalc | .decode | .errclr | .send _ | .recv | .addrack | .stopack | .stopclr => true

/-- Acceptance by phase (rule R190). -/
def phaseReason (i : Instr) (p : Phase) : Option Reason :=
  match i with
  | .init =>
    match p with
    | .unconfigured => none
    | .ready => some .alreadyConfigured
    | .failed => some .notReady
  | .tcalc => none
  | .poll | .decode | .errclr | .send _ | .recv | .addrack | .stopack | .stopclr =>
    match p with
    | .ready => none
    | .unconfigured | .failed => some .notReady

/-- The refusal checks of rule R190 that come after `IllegalCommand` and before `IllegalMode`, in order. -/
def gate (i : Instr) (s : State) : Option Reason :=
  if isComponent i && !s.straps.exposeComponentOps then some .componentOpsHidden
  else phaseReason i s.block.phase

/-- Run an operation that takes no BusMode, if it is accepted (rule R190). -/
def gated (i : Instr) (op : Op Unit) (s : State) : Host.Outcome State Fault Refusal :=
  match gate i s with
  | some r => refuse r s
  | none => runOp op s

/-- Run an operation on the BusMode the inputs spell; the spelling check is the last refusal check (rules R75,
R190). -/
def gatedMode (i : Instr) (op : BusMode → Op Unit) (s : State) : Host.Outcome State Fault Refusal :=
  match gate i s with
  | some r => refuse r s
  | none =>
    match busMode s.inputs with
    | none => refuse .illegalMode s
    | some m => runOp (op m) s

end Sys2Proof.Machine
end

