-- ==== Sys2Proof/Machine/CommandPort.lean ====
section
/-! DEFINITION. The command port: taking the host's next action (rules R18, R70, R203). -/

namespace Sys2Proof.Machine

/-- The host's next action has been taken from its list; the inputs it presents are sampled and its reset input is
armed (rules R70, R205). -/
def State.presented (s : State) (rest : List HostAction) (inputs : Inputs) (resetAfter : Option Nat) : State :=
  { s with host := rest, inputs := inputs, resetAfter := resetAfter }

/-- The list of what the host will do, without the action just taken. -/
def State.hostRest (s : State) (rest : List HostAction) : State := { s with host := rest }

/-- The state with a command word presented next, the inputs in force as they are and no reset during it (rules R70,
R86). -/
def State.presenting (s : State) (w : Command) : State :=
  { s with host := .command w s.inputs none :: s.host }

end Sys2Proof.Machine
end

