-- ==== Sys2Proof/Machine/DataTransfer.lean ====
section
/-! DEFINITION. SEND and RECV (rules R150 to R154). -/

namespace Sys2Proof.Machine

/-- SEND: exactly one write of DR, no readiness check (rule R151). -/
def sendOp (b : Byte) : Op Unit := do
  regWrite .DR (drValue b)
  setResult (fun r => { r with txReq := true })

/-- RECV: exactly one read of DR; bits [15:8] are dropped (rule R152). -/
def recvOp : Op Byte := do
  let v ← regRead .DR
  setResult (fun r => { r with rxByte := drByte v, rxValid := true })
  pure (drByte v)

/-- The command `SEND` (rule R151). -/
def execSend (b : Byte) (s : State) : Host.Outcome State Fault Refusal := gated (.send b) (sendOp b) s

/-- The command `RECV` (rule R152). -/
def execRecv (s : State) : Host.Outcome State Fault Refusal :=
  gated .recv (do let _ ← recvOp) s

end Sys2Proof.Machine
end

