-- ==== Sys2Proof/Machine/ErrorClear.lean ====
section
/-! DEFINITION. ERRCLR, the sticky error-flag detector and clear sequencer (rules R125 to R132). -/

namespace Sys2Proof.Machine

/-- ERRCLR: one read of SR1; if any of the seven flags is set, one write with all seven at 0 and every other bit as
read (rules R126, R127). -/
def errclrOp : Op Unit := do
  let s1 ← regRead .SR1
  let e := errBits s1
  if e != 0 then
    regWrite .SR1 (s1 &&& ~~~errMask)
  setResult (fun r => { r with errs := e })

/-- The command `ERRCLR` (rule R126). -/
def execErrclr (s : State) : Host.Outcome State Fault Refusal := gated .errclr errclrOp s

end Sys2Proof.Machine
end

