-- ==== Sys2Proof/Machine/EventDecode.lean ====
section
/-! DEFINITION. DECODE and the classifier (rules R135 to R144). -/

namespace Sys2Proof.Machine

/-- `Classify`: the fixed precedence, first match wins (rule R137). -/
def classify (x : Snapshot) : Event :=
  if x.busy && x.addr && !x.tra then .receiverAddressMatched
  else if x.tra && x.busy && x.txe && x.addr then .transmitterAddressMatched
  else if x.busy && x.rxne then .byteReceived
  else if x.tra && x.busy && x.txe && x.btf then .byteTransmitted
  else if x.tra && x.busy && x.txe then .byteTransmitting
  else if x.stopf then .stopDetected
  else .absence

/-- DECODE: exactly one read of SR1, then exactly one read of SR2, then classify (rules R136, R142). -/
def decodeOp : Op Event := do
  let s1 ← regRead .SR1
  let s2 ← regRead .SR2
  let ev := classify (snapshot s1 s2)
  setResult (fun r => { r with event := ev.code })
  pure ev

/-- The command `DECODE` (rule R136). -/
def execDecode (s : State) : Host.Outcome State Fault Refusal :=
  gated .decode (do let _ ← decodeOp) s

end Sys2Proof.Machine
end

