-- ==== Sys2Proof/Machine/StopClear.lean ====
section
/-! DEFINITION. ADDRACK, STOPACK and STOPCLR, the two clear sequences (rules R158 to R165). -/

namespace Sys2Proof.Machine

/-- ADDRACK: one read of SR1; a read of SR2 exactly when it showed `ADDR` (rule R159). -/
def addrackOp : Op Unit := do
  let s1 ← regRead .SR1
  if sr1ADDR s1 then
    let _ ← regRead .SR2

/-- STOPACK's loop after `n` writes of CR, with `left` more allowed: read SR1; done when `STOPF` is clear; the fault
when no write is left; else re-assert `ACK` by a read-modify-write of CR and go round (rules R161 to R163). -/
def stopackLoop : (left n : Nat) → Op Unit
  | 0, n => do
    let s1 ← regRead .SR1
    setResult (fun r => { r with iters := BitVec.ofNat 4 n })
    if sr1STOPF s1 then raise .stopClearNonConvergence
  | left + 1, n => do
    let s1 ← regRead .SR1
    if sr1STOPF s1 then
      let c ← regRead .CR
      regWrite .CR (c ||| ackMask)
      stopackLoop left (n + 1)
    else
      setResult (fun r => { r with iters := BitVec.ofNat 4 n })

/-- STOPACK: the loop with `STOP_CLEAR_MAX_ITER` writes allowed, counted from 0 each time (rules R161, R164). -/
def stopackOp : Op Unit := stopackLoop Config.stopClearMaxIter 0

/-- STOPCLR: ADDRACK, then STOPACK (rule R165). -/
def stopclrOp : Op Unit := do
  addrackOp
  stopackOp

/-- The command `ADDRACK` (rule R159). -/
def execAddrack (s : State) : Host.Outcome State Fault Refusal := gated .addrack addrackOp s

/-- The command `STOPACK` (rule R161). -/
def execStopack (s : State) : Host.Outcome State Fault Refusal := gated .stopack stopackOp s

/-- The command `STOPCLR` (rule R165). -/
def execStopclr (s : State) : Host.Outcome State Fault Refusal := gated .stopclr stopclrOp s

end Sys2Proof.Machine
end

