-- ==== Sys2Proof/Machine/Poll.lean ====
section
/-! DEFINITION. POLL (rules R170 to R181). -/

namespace Sys2Proof.Machine

/-- SEND inside POLL: `tx_data` is sampled now; `tx_first` says whether a new response has begun (rules R176,
R177). -/
def respondOp (first : Bool) : Op Unit := do
  let s ← get
  setResult (fun r => { r with txFirst := first })
  sendOp s.inputs.txData

/-- Dispatch on the decoded event (rules R171, R173 to R177). -/
def dispatchOp (ev : Event) : Op Unit :=
  match ev with
  | .absence => pure ()
  | .receiverAddressMatched => pure ()
  | .byteReceived => do
    let b ← recvOp
    emitSink b
  | .transmitterAddressMatched => respondOp true
  | .byteTransmitted => respondOp false
  | .byteTransmitting => respondOp false
  | .stopDetected => stopclrOp

/-- POLL: error clear, decode, dispatch, always in that order (rules R171, R172). -/
def pollOp : Op Unit := do
  errclrOp
  let ev ← decodeOp
  dispatchOp ev

/-- The command `POLL` (rule R171). -/
def execPoll (s : State) : Host.Outcome State Fault Refusal := gated .poll pollOp s

end Sys2Proof.Machine
end

