-- ==== Sys2Proof/Machine/Address.lean ====
section
/-! DEFINITION. SETADDR, INIT's own-address step (rules R120 to R123). -/

namespace Sys2Proof.Machine

/-- SETADDR: exactly one write of OAR, no read, no range check (rules R121, R122). -/
def setaddrOp (a8 : Byte) : Op Unit := regWrite .OAR (oarValue a8)

end Sys2Proof.Machine
end

