-- ==== Sys2Proof/Machine/Timing.lean ====
section
/-! DEFINITION. The timing-parameter calculator, TCALC, the apply step TAPPLY and INIT (rules R100 to R117). -/

namespace Sys2Proof.Machine

/-- What the calculator computes, as natural numbers (rules R76, R103 to R106). -/
structure TimingValues where
  triseN : Nat
  divN   : Nat
  fs     : Bool
  duty   : Bool
  deriving DecidableEq, Repr

/-- `clock_MHz` (rule R102). -/
def clockMHz (clockHz : Nat) : Nat := clockHz / Config.hzPerMHz

/-- The fast-mode rise time (rules R104, R105). -/
def fastRise (clockHz : Nat) : Nat := clockMHz clockHz * Config.fastRiseNum / Config.fastRiseDen + 1

/-- `TimingCalc` (rules R103 to R106): natural numbers, floor division, no wrap. -/
def timingCalc (clockHz : Nat) (m : BusMode) : TimingValues :=
  match m with
  | .standard f =>
    { triseN := clockMHz clockHz + 1
      divN := max Config.stdDivMin (clockHz / (Config.stdDivK * f))
      fs := false
      duty := false }
  | .fast f .ratio2to1 =>
    { triseN := fastRise clockHz
      divN := max Config.fastDivMin (clockHz / (Config.fast21DivK * f))
      fs := true
      duty := false }
  | .fast f .ratio16to9 =>
    { triseN := fastRise clockHz
      divN := max Config.fastDivMin (clockHz / (Config.fast169DivK * f))
      fs := true
      duty := true }

/-- The frequency check, made before the calculator runs (rule R114). -/
def freqFault (freqHz : Nat) : Option SeuFault :=
  if freqHz > Config.freqMaxHz then some .freqTooHigh
  else if freqHz = 0 then some .freqZero
  else none

/-- The fit check (rule R115). -/
def TimingValues.fits (t : TimingValues) : Bool :=
  decide (t.triseN < 2 ^ Config.triseBits ∧ t.divN < 2 ^ Config.divBits)

/-- The four result fields the calculator sets (rule R76). -/
def reportTiming (t : TimingValues) : Op Unit :=
  setResult (fun r =>
    { r with
      triseN := BitVec.ofNat 32 t.triseN
      divN := BitVec.ofNat 32 t.divN
      fs := t.fs
      duty := t.duty })

/-- TCALC on a BusMode: the two frequency faults, or the four values; no access, no change of state (rule R101). -/
def tcalcOp (m : BusMode) : Op Unit := do
  let s ← get
  match freqFault s.inputs.cfgFreqHz.toNat with
  | some f => raise f
  | none => reportTiming (timingCalc s.inputs.cfgClockHz.toNat m)

/-- The command `TCALC` (rule R101). -/
def execTcalc (s : State) : Host.Outcome State Fault Refusal := gatedMode .tcalc tcalcOp s

/-- TAPPLY: `PE` and `ACK` off; TRISE; CCR; `PE` on with `ACK` still off; `ACK` and `ENGC` on. Every CR write is a
read-modify-write (rules R108 to R112). -/
def tapplyOp (trise : BitVec Config.triseBits) (div : BitVec Config.divBits) (fs duty : Bool) : Op Unit := do
  let c1 ← regRead .CR
  regWrite .CR (c1 &&& ~~~peMask &&& ~~~ackMask)
  regWrite .TRISE (triseValue trise)
  regWrite .CCR (ccrValue div fs duty)
  let c2 ← regRead .CR
  regWrite .CR ((c2 &&& ~~~ackMask) ||| peMask)
  let c3 ← regRead .CR
  regWrite .CR (c3 ||| ackMask ||| engcMask)

/-- A construction-time fatal error: the phase becomes `Failed`, then the fault is raised (rules R114, R187). -/
def fatal (f : SeuFault) : Op Unit := do
  setBlock (fun b => { b with phase := .failed })
  raise f

/-- INIT's part after all checks: store the TimingParameters, apply them, store and write the own address, store the
four parameters, become ready (rules R113, R116). -/
def configureOp (t : TimingValues) (i : Inputs) (cyclesPerUs : BitVec 32) : Op Unit := do
  let trise := BitVec.ofNat Config.triseBits t.triseN
  let div := BitVec.ofNat Config.divBits t.divN
  setBlock (fun b => { b with triseVal := trise, divVal := div, fs := t.fs, duty := t.duty })
  tapplyOp trise div t.fs t.duty
  setBlock (fun b => { b with ownAddr := ownAddress i.cfgOwnAddr })
  setaddrOp (ownAddress i.cfgOwnAddr)
  setBlock (fun b =>
    { b with
      tStart := scaledTimeout i.cfgTStartUs cyclesPerUs
      nStartRetry := i.cfgNStartRetry
      tAddr := scaledTimeout i.cfgTAddrUs cyclesPerUs
      tData := scaledTimeout i.cfgTDataUs cyclesPerUs
      phase := .ready })

/-- INIT on a BusMode: the frequency check, the calculator, the fit check, then the configuration (rules R113 to
R115). -/
def initOp (m : BusMode) : Op Unit := do
  let s ← get
  match freqFault s.inputs.cfgFreqHz.toNat with
  | some f => fatal f
  | none => do
    let t := timingCalc s.inputs.cfgClockHz.toNat m
    reportTiming t
    match t.fits with
    | true => configureOp t s.inputs s.straps.cyclesPerUs
    | false => fatal .fieldOverflow

/-- The command `INIT` (rule R113). -/
def execInit (s : State) : Host.Outcome State Fault Refusal := gatedMode .init initOp s

end Sys2Proof.Machine
end

