-- ==== Sys2Proof/Machine/Dispatch.lean ====
section
/-! DEFINITION. The meaning of every operation, one arm per row of the opcode map (rule R72). -/

namespace Sys2Proof.Machine

def exec (i : Instr) (s : State) : Host.Outcome State Fault Refusal :=
  match i with
  | .init => Sys2Proof.Machine.execInit s
  | .poll => Sys2Proof.Machine.execPoll s
  | .tcalc => Sys2Proof.Machine.execTcalc s
  | .decode => Sys2Proof.Machine.execDecode s
  | .errclr => Sys2Proof.Machine.execErrclr s
  | .send b => Sys2Proof.Machine.execSend b s
  | .recv => Sys2Proof.Machine.execRecv s
  | .addrack => Sys2Proof.Machine.execAddrack s
  | .stopack => Sys2Proof.Machine.execStopack s
  | .stopclr => Sys2Proof.Machine.execStopclr s

end Sys2Proof.Machine
end

