-- ==== Sys2Proof/Machine/Step.lean ====
section
/-! DEFINITION. One step: the host's next action, taken to its end (rule R18). With nothing presented the SEU is
idle. -/

namespace Sys2Proof.Machine

/-- One step. An illegal word is refused `IllegalCommand` before every other check (rules R73, R190). -/
def step (s : State) : Host.Outcome State Fault Refusal :=
  match s.host with
  | [] => .next s
  | .reset :: rest => .next (s.hostRest rest).hostReset
  | .command w inputs resetAfter :: rest =>
    match decodeWord w with
    | .ok i => exec i (s.presented rest inputs resetAfter)
    | .error _ => refuse .illegalCommand (s.presented rest inputs resetAfter)

/-- `s` with the row's word `w` on the command port, so that the very next step runs it. -/
def State.withFetchWord (s : State) (nbits w : Nat) : State :=
  s.presenting (BitVec.ofNat 16 (w % 2 ^ nbits))

end Sys2Proof.Machine
end

