-- ==== Sys2Proof/Safety.lean ====
section
/-! DEFINITION. The terms claims are stated in: port accesses made one after another and how they are answered, a
command's answer, the lists of accesses the rules give, a silent environment, and the invariant of the machine. -/

namespace Sys2Proof.Machine

/-! ### Accesses in a row -/

/-- The state after the accesses `l`, each performed before the next (rule R45). -/
def State.performed (s : State) : List Access → State
  | [] => s
  | a :: l => (s.access a).performed l

/-- Every read in `l` was answered what the port answers at that point (rules R43, R46). -/
def State.answered (s : State) : List Access → Prop
  | [] => True
  | .read r v :: l => v = s.answer r ∧ (s.access (.read r v)).answered l
  | .write r v :: l => (s.access (.write r v)).answered l

/-- The state once the result record `r` has been returned to the host (rule R76). -/
def State.returning (s : State) (r : Result) : State :=
  { s with result := r, returned := true, resetAfter := none }

/-- A refusal's result record: every field but `status` and `code` is 0 (rule R190). -/
def Result.refusal (r : Reason) : Result := { Result.zero with status := .refused, code := r.code }

/-- The result record `r` of a command that ended in the fault `f` (rules R186, R192). -/
def Result.faulted (r : Result) (f : SeuFault) : Result := { r with status := .fault, code := f.code }

/-! ### The accesses the rules give -/

/-- ERRCLR's accesses when its read is answered `v` (rule R126). -/
def errclrAccesses (v : Word) : List Access :=
  if errBits v = 0 then [.read .SR1 v] else [.read .SR1 v, .write .SR1 (v &&& ~~~errMask)]

/-- ADDRACK's accesses when its reads are answered `v` and `w` (rule R159). -/
def addrackAccesses (v w : Word) : List Access :=
  if sr1ADDR v then [.read .SR1 v, .read .SR2 w] else [.read .SR1 v]

/-- One round of STOPACK that finds `STOPF` set: SR1 answered `p.1`, CR answered `p.2` (rules R161, R162). -/
def stopRound (p : Word × Word) : List Access :=
  [.read .SR1 p.1, .read .CR p.2, .write .CR (p.2 ||| ackMask)]

/-- STOPACK's accesses: the rounds, then the read of SR1 that ends the loop (rule R161). -/
def stopackAccesses (rounds : List (Word × Word)) (last : Word) : List Access :=
  rounds.flatMap stopRound ++ [.read .SR1 last]

/-- The rounds and the last read are ones STOPACK can make: every round found `STOPF` set, there are at most 8, and
the loop ends before the eighth round only on a read that finds `STOPF` clear (rules R161, R163). -/
def StopackRun (rounds : List (Word × Word)) (last : Word) : Prop :=
  (∀ p ∈ rounds, sr1STOPF p.1 = true) ∧ rounds.length ≤ 8 ∧ (rounds.length < 8 → sr1STOPF last = false)

/-- The result record of a STOPACK that went `n` rounds, on top of the fields `r` set before it: the fault if the last
read still shows `STOPF` (rules R161, R163). -/
def stopackResult (r : Result) (n : Nat) (last : Word) : Result :=
  if sr1STOPF last then ({ r with iters := BitVec.ofNat 4 n } : Result).faulted .stopClearNonConvergence
  else { r with iters := BitVec.ofNat 4 n }

/-- INIT's nine accesses when its three reads of CR are answered `c1`, `c2`, `c3` (rules R108, R113, R121). -/
def initAccesses (trise : BitVec 6) (div : BitVec 12) (fs duty : Bool) (addr : BitVec 7) (c1 c2 c3 : Word) :
    List Access :=
  [ .read .CR c1, .write .CR (c1 &&& ~~~0x0001 &&& ~~~0x0400),
    .write .TRISE (trise.setWidth 16),
    .write .CCR (BitVec.ofBool fs ++ BitVec.ofBool duty ++ (0 : BitVec 2) ++ div),
    .read .CR c2, .write .CR ((c2 &&& ~~~0x0400) ||| 0x0001),
    .read .CR c3, .write .CR (c3 ||| 0x0400 ||| 0x0040),
    .write .OAR ((0 : BitVec 8) ++ addr ++ (0 : BitVec 1)) ]

/-! ### When a command runs -/

/-- The SEU is ready, the component operations are exposed, and the host does not reset it during the command
(rules R190, R205). -/
structure State.Ready (s : State) : Prop where
  phase   : s.block.phase = .ready
  exposed : s.straps.exposeComponentOps = true
  noReset : s.resetAfter = none

/-- The gating of the register-touching component operations, the host not resetting meanwhile: refused
`ComponentOpsHidden` when hidden, else refused `NotReady` outside phase `Ready` (rules R151, R190). -/
def GatedComponent (i : Instr) : Prop :=
  ∀ s : State, s.resetAfter = none →
    (s.straps.exposeComponentOps = false →
      exec i s = .next (s.returning (Result.refusal .componentOpsHidden))) ∧
    (s.straps.exposeComponentOps = true → s.block.phase ≠ .ready →
      exec i s = .next (s.returning (Result.refusal .notReady)))

/-! ### A silent environment -/

/-- The bus engine does nothing, the peripheral reacts as the premises of rule R57 say, and the host keeps
`tx_data`. -/
def EnvMove.quiet : EnvMove := { engine := [], react := none, tx := none }

/-- The environment is silent for the next `n` accesses. -/
def State.QuietFor (s : State) (n : Nat) : Prop := ∃ rest, s.env = List.replicate n EnvMove.quiet ++ rest

/-! ### What an operation leaves alone -/

/-- Everything that no register access and no result record can touch: the straps, what the host will do, the count
of resets, and every input but `tx_data`, which the host may change (rules R70, R203). -/
structure SameSurroundings (s t : State) : Prop where
  straps : t.straps = s.straps
  host   : t.host = s.host
  resets : t.resets = s.resets
  inputs : { t.inputs with txData := s.inputs.txData } = s.inputs

/-- An access SEU operations may make at all (rules R20, R27, R83, R84, R109, R126, R151): TRISE, CCR and OAR are never read,
SR2 never written; SR1 is written only with all seven error bits 0; DR, TRISE and OAR only with their unnamed bits
0; CCR only with bits 13 and 12 at 0; CR may be written any value. -/
def Access.Allowed : Access → Prop
  | .read r _ => r ≠ .TRISE ∧ r ≠ .CCR ∧ r ≠ .OAR
  | .write .SR1 v => v &&& 0xDF00 = 0
  | .write .SR2 _ => False
  | .write .DR v => v &&& 0xFF00 = 0
  | .write .TRISE v => v &&& 0xFFC0 = 0
  | .write .OAR v => v &&& 0xFF01 = 0
  | .write .CCR v => v &&& 0x3000 = 0
  | .write .CR _ => True

/-- How many accesses of `l` are reads of `r` (rule R216). -/
def readCount (r : Reg) : List Access → Nat
  | [] => 0
  | .read r' _ :: l => (if r' = r then 1 else 0) + readCount r l
  | .write _ _ :: l => readCount r l

/-- How many accesses of `l` are writes of `r` (rules R163, R178). -/
def writeCount (r : Reg) : List Access → Nat
  | [] => 0
  | .read _ _ :: l => writeCount r l
  | .write r' _ :: l => (if r' = r then 1 else 0) + writeCount r l

/-- The order rules R210 to R212 demand of INIT's accesses: wherever CR is written with `ACK`, an earlier write had
`PE`; wherever CR is written with `PE`, TRISE and CCR were both written before; wherever TRISE or CCR is written, CR
was written with `PE` = 0 before and not with `PE` = 1. -/
structure EnableOrder (l : List Access) : Prop where
  ackAfterEnable    : ∀ p v q, l = p ++ .write .CR v :: q → crACK v = true →
    ∃ u, .write .CR u ∈ p ∧ crPE u = true
  enableAfterTiming : ∀ p v q, l = p ++ .write .CR v :: q → crPE v = true →
    (∃ u, .write .TRISE u ∈ p) ∧ (∃ u, .write .CCR u ∈ p)
  timingDisabled    : ∀ p r v q, l = p ++ .write r v :: q → r = .TRISE ∨ r = .CCR →
    (∃ u, .write .CR u ∈ p ∧ crPE u = false) ∧ ∀ u, .write .CR u ∈ p → crPE u = false

/-! ### The invariant -/

/-- TimingParameters and OwnAddress as a successful INIT leaves them (rules R11, R12, R103 to R107). -/
structure Block.Configured (b : Block) : Prop where
  risePositive    : 1 ≤ b.triseVal.toNat
  divPositive     : 1 ≤ b.divVal.toNat
  standardDivisor : b.fs = false → 4 ≤ b.divVal.toNat
  standardDuty    : b.fs = false → b.duty = false
  addressShifted  : b.ownAddr.getLsbD 0 = false

/-- Result records the SEU can return: the event code is never 7, at most 8 iterations, and a code that is one of its
status (rules R76, R77, R163, R186, R190). -/
structure Result.Legal (r : Result) : Prop where
  event   : r.event ≠ 7
  iters   : r.iters.toNat ≤ 8
  ok      : r.status = .ok → r.code = 0
  refused : r.status = .refused → 1 ≤ r.code.toNat ∧ r.code.toNat ≤ 5
  fault   : r.status = .fault → r.code = 1 ∨ r.code = 2 ∨ r.code = 3 ∨ r.code = 5

/-- The invariant of the machine. -/
structure State.Inv (s : State) : Prop where
  configured : s.block.phase = .ready → s.block.Configured
  result     : s.result.Legal
  accesses   : ∀ a ∈ s.trace, a.Allowed

end Sys2Proof.Machine
end

