-- ==== Sys2Proof/Certificates/Slice0/Obligations.lean ====
section
/-! DEFINITION. The statements for the provers, each about the rules R<n> of spec/ its docstring names. -/

open Sys2Proof Sys2Proof.Machine

/-! ### Encoding and the command port -/

/-- Decoding the word an operation is encoded as gives that operation back (rules R70 to R72). -/
def Obligations.DecodeOfEncodeIsTheOperation : Prop :=
  ∀ i : Instr, i.WellFormed → decodeWord (encode i) = .ok i

/-- A legal word is the encoding of what it decodes to: no bit of a command word is dropped (rules R71 to R73). -/
def Obligations.EncodeOfDecodeIsTheWord : Prop :=
  ∀ (w : Command) (i : Instr), decodeWord w = .ok i → encode i = w ∧ i.WellFormed

/-- Rule R73: the illegal words are exactly those with selector 0x0 or 0xB to 0xF, those with bits [11:8] not 0, and
those of a `C0` selector with bits [7:0] not 0. -/
def Obligations.IllegalWordsAreExactlyTheReservedOnes : Prop :=
  ∀ w : Command, (∃ e, decodeWord w = .error e) ↔
    (w.toNat / 4096 = 0 ∨ 11 ≤ w.toNat / 4096 ∨ w.toNat / 256 % 16 ≠ 0 ∨
      (w.toNat / 4096 ≠ 6 ∧ w.toNat % 256 ≠ 0))

/-- Rule R72: a word selects at most one row of the opcode map. -/
def Obligations.OpcodeRowsAreDisjoint : Prop :=
  ∀ w : Command, ∀ r ∈ opcodeTable, ∀ q ∈ opcodeTable, r.selects w = true → q.selects w = true → r = q

/-- Words written out from rule R72 decode to their operations (a sanity statement). -/
def Obligations.SpelledWordsDecode : Prop :=
  decodeWord 0b0001000000000000 = .ok .init ∧ decodeWord 0b0010000000000000 = .ok .poll ∧
  decodeWord 0b0011000000000000 = .ok .tcalc ∧ decodeWord 0b0100000000000000 = .ok .decode ∧
  decodeWord 0b0101000000000000 = .ok .errclr ∧ decodeWord 0b0110000010100101 = .ok (.send 0xA5) ∧
  decodeWord 0b0111000000000000 = .ok .recv ∧ decodeWord 0b1000000000000000 = .ok .addrack ∧
  decodeWord 0b1001000000000000 = .ok .stopack ∧ decodeWord 0b1010000000000000 = .ok .stopclr

/-- Rule R73: a word with selector 0x0 or 0xB to 0xF, with bits [11:8] not 0, or of a `C0` selector with bits [7:0]
not 0, is refused `IllegalCommand`, code 1, in every phase, with no register access and no state change, when the host
asserts no reset with it; the port's inputs are those presented, and the host's action is used up. -/
def Obligations.IllegalCommandIsRefused : Prop :=
  ∀ (s : State) (w : Command) (inputs : Inputs) (rest : List HostAction),
    s.host = .command w inputs none :: rest →
    (w.toNat / 4096 = 0 ∨ 11 ≤ w.toNat / 4096 ∨ w.toNat / 256 % 16 ≠ 0 ∨
      (w.toNat / 4096 ≠ 6 ∧ w.toNat % 256 ≠ 0)) →
    step s = .next { s with
      host := rest
      inputs := inputs
      result := { Result.zero with status := .refused, code := 1 }
      returned := true
      resetAfter := none }

/-- A step runs the decoded command: with a legal word presented, `step` is `exec` of its operation at the state with
the action used up and the presented inputs sampled (rules R18, R70). That commands come from a list whose first
action is used up, that an empty list leaves the SEU idle, and that `withFetchWord` puts a command at the head of the
list are the model's choice (log 9), and so is the command's armed reset input (log 8). -/
def Obligations.StepRunsTheDecodedCommand : Prop :=
  (∀ (s : State) (w : Command) (inputs : Inputs) (k : Option Nat) (rest : List HostAction) (i : Instr),
    s.host = .command w inputs k :: rest → decodeWord w = .ok i →
    step s = exec i { s with host := rest, inputs := inputs, resetAfter := k }) ∧
  (∀ (s : State) (i : Instr), step (s.withFetchWord 16 (encode i).toNat) = exec i { s with resetAfter := none }) ∧
  (∀ s : State, s.host = [] → step s = .next s)

/-- Rule R190: the refusals of operations, in the order of the rule's table, and that a refused command changes
nothing but the result record (status, code, every other field 0). With a reset asserted meanwhile (log 8) the
refused command too ends as `ResetDuringACommandResetsTheBlock` says. -/
def Obligations.RefusalsFollowTheGatingTable : Prop :=
  ∀ s : State, s.resetAfter = none →
    (∀ i : Instr, i ≠ .init → i ≠ .poll → s.straps.exposeComponentOps = false →
      exec i s = .next (s.returning { Result.zero with status := .refused, code := 5 })) ∧
    (s.block.phase = .ready →
      exec .init s = .next (s.returning { Result.zero with status := .refused, code := 3 })) ∧
    (s.block.phase = .failed →
      exec .init s = .next (s.returning { Result.zero with status := .refused, code := 2 })) ∧
    (s.block.phase ≠ .ready →
      exec .poll s = .next (s.returning { Result.zero with status := .refused, code := 2 })) ∧
    (∀ i : Instr, i ≠ .init → i ≠ .tcalc → s.straps.exposeComponentOps = true → s.block.phase ≠ .ready →
      exec i s = .next (s.returning { Result.zero with status := .refused, code := 2 })) ∧
    (s.inputs.cfgModeFast = false → s.inputs.cfgModeDuty = true →
      (s.block.phase = .unconfigured →
        exec .init s = .next (s.returning { Result.zero with status := .refused, code := 4 })) ∧
      (s.straps.exposeComponentOps = true →
        exec .tcalc s = .next (s.returning { Result.zero with status := .refused, code := 4 })))

/-- Every step of every state ends in a next state: no command hangs, and the model stops on none (rules R18, R88,
R180, R192). -/
def Obligations.EveryStepAnswersANextState : Prop :=
  ∀ s : State, ∃ t, step s = .next t

/-! ### The timing calculator and INIT -/

/-- Rules R102, R103 for TCALC: Standard mode with a frequency from 1 to 400000. The result holds the naturals
themselves, nothing is wrapped, and nothing but the result record changes (rule R101). -/
def Obligations.TcalcStandard : Prop :=
  ∀ s : State, s.resetAfter = none → s.straps.exposeComponentOps = true →
    s.inputs.cfgModeFast = false → s.inputs.cfgModeDuty = false →
    1 ≤ s.inputs.cfgFreqHz.toNat → s.inputs.cfgFreqHz.toNat ≤ 400000 →
    ∃ rise div : BitVec 32,
      rise.toNat = s.inputs.cfgClockHz.toNat / 1000000 + 1 ∧
      div.toNat = max 4 (s.inputs.cfgClockHz.toNat / (2 * s.inputs.cfgFreqHz.toNat)) ∧
      exec .tcalc s =
        .next (s.returning { Result.zero with triseN := rise, divN := div, fs := false, duty := false })

/-- Rules R102, R104 for TCALC: Fast mode with Ratio2to1. -/
def Obligations.TcalcFastTwoToOne : Prop :=
  ∀ s : State, s.resetAfter = none → s.straps.exposeComponentOps = true →
    s.inputs.cfgModeFast = true → s.inputs.cfgModeDuty = false →
    1 ≤ s.inputs.cfgFreqHz.toNat → s.inputs.cfgFreqHz.toNat ≤ 400000 →
    ∃ rise div : BitVec 32,
      rise.toNat = s.inputs.cfgClockHz.toNat / 1000000 * 300 / 1000 + 1 ∧
      div.toNat = max 1 (s.inputs.cfgClockHz.toNat / (3 * s.inputs.cfgFreqHz.toNat)) ∧
      exec .tcalc s =
        .next (s.returning { Result.zero with triseN := rise, divN := div, fs := true, duty := false })

/-- Rules R102, R105 for TCALC: Fast mode with Ratio16to9. -/
def Obligations.TcalcFastSixteenToNine : Prop :=
  ∀ s : State, s.resetAfter = none → s.straps.exposeComponentOps = true →
    s.inputs.cfgModeFast = true → s.inputs.cfgModeDuty = true →
    1 ≤ s.inputs.cfgFreqHz.toNat → s.inputs.cfgFreqHz.toNat ≤ 400000 →
    ∃ rise div : BitVec 32,
      rise.toNat = s.inputs.cfgClockHz.toNat / 1000000 * 300 / 1000 + 1 ∧
      div.toNat = max 1 (s.inputs.cfgClockHz.toNat / (25 * s.inputs.cfgFreqHz.toNat)) ∧
      exec .tcalc s =
        .next (s.returning { Result.zero with triseN := rise, divN := div, fs := true, duty := true })

/-- Rule R101's two faults: a frequency above 400000 and frequency 0; only the result record changes. -/
def Obligations.TcalcFrequencyFaults : Prop :=
  ∀ s : State, s.resetAfter = none → s.straps.exposeComponentOps = true →
    (s.inputs.cfgModeFast = true ∨ s.inputs.cfgModeDuty = false) →
    (400000 < s.inputs.cfgFreqHz.toNat →
      exec .tcalc s = .next (s.returning { Result.zero with status := .fault, code := 1 })) ∧
    (s.inputs.cfgFreqHz.toNat = 0 →
      exec .tcalc s = .next (s.returning { Result.zero with status := .fault, code := 2 }))

/-- The values the calculator computes for legal inputs: never wider than 32 bits, rise time at least 1, divisor at
least the mode's minimum (rules R106, R107); and the clocks from which the rise time no longer fits its 6 bits
(rule R115). -/
def Obligations.CalculatorBounds : Prop :=
  ∀ clk f : Nat, clk < 2 ^ 32 → 1 ≤ f → f ≤ 400000 →
    (∀ m, m = .standard f ∨ m = .fast f .ratio2to1 ∨ m = .fast f .ratio16to9 →
      1 ≤ (timingCalc clk m).triseN ∧ (timingCalc clk m).triseN ≤ 4295 ∧
      1 ≤ (timingCalc clk m).divN ∧ (timingCalc clk m).divN ≤ 2 ^ 31) ∧
    4 ≤ (timingCalc clk (.standard f)).divN ∧
    (63 < (timingCalc clk (.standard f)).triseN ↔ 63000000 ≤ clk) ∧
    (∀ d, 63 < (timingCalc clk (.fast f d)).triseN ↔ 210000000 ≤ clk)

/-- Rule R113, the successful path: nine accesses in the rule's order, every block state element written, the computed
values in the result, phase `Ready`. -/
def Obligations.InitConfigures : Prop :=
  ∀ (s : State) (m : BusMode), s.block.phase = .unconfigured → s.resetAfter = none →
    busMode s.inputs = some m →
    1 ≤ s.inputs.cfgFreqHz.toNat → s.inputs.cfgFreqHz.toNat ≤ 400000 →
    (timingCalc s.inputs.cfgClockHz.toNat m).triseN < 64 →
    (timingCalc s.inputs.cfgClockHz.toNat m).divN < 4096 →
    ∃ (rise : BitVec 6) (div : BitVec 12) (tStart tAddr tData : BitVec 64) (c1 c2 c3 : Word),
      let v := timingCalc s.inputs.cfgClockHz.toNat m
      let l := initAccesses rise div v.fs v.duty s.inputs.cfgOwnAddr c1 c2 c3
      rise.toNat = v.triseN ∧ div.toNat = v.divN ∧
      tStart.toNat = s.inputs.cfgTStartUs.toNat * s.straps.cyclesPerUs.toNat ∧
      tAddr.toNat = s.inputs.cfgTAddrUs.toNat * s.straps.cyclesPerUs.toNat ∧
      tData.toNat = s.inputs.cfgTDataUs.toNat * s.straps.cyclesPerUs.toNat ∧
      s.answered l ∧
      exec .init s = .next
        ({ s.performed l with
            block :=
              { phase := .ready, triseVal := rise, divVal := div, fs := v.fs, duty := v.duty,
                ownAddr := s.inputs.cfgOwnAddr ++ (0 : BitVec 1), tStart := tStart,
                nStartRetry := s.inputs.cfgNStartRetry, tAddr := tAddr, tData := tData } }.returning
          { Result.zero with
            triseN := rise.setWidth 32, divN := div.setWidth 32, fs := v.fs, duty := v.duty })

/-- Rule R114: INIT with a frequency above 400000, or 0, ends in the fault before any access, with phase `Failed` and
every other block state element as it was. -/
def Obligations.InitFrequencyFaults : Prop :=
  ∀ s : State, s.block.phase = .unconfigured → s.resetAfter = none →
    (s.inputs.cfgModeFast = true ∨ s.inputs.cfgModeDuty = false) →
    (400000 < s.inputs.cfgFreqHz.toNat →
      exec .init s = .next ({ s with block := { s.block with phase := .failed } }.returning
        { Result.zero with status := .fault, code := 1 })) ∧
    (s.inputs.cfgFreqHz.toNat = 0 →
      exec .init s = .next ({ s with block := { s.block with phase := .failed } }.returning
        { Result.zero with status := .fault, code := 2 }))

/-- Rule R115: INIT raises `ConfigError(FieldOverflow)` before any access when the rise time does not fit 6 bits or
the divisor 12; the result carries the computed values (rule R113), the phase is `Failed`. -/
def Obligations.InitFieldOverflow : Prop :=
  ∀ (s : State) (m : BusMode), s.block.phase = .unconfigured → s.resetAfter = none → busMode s.inputs = some m →
    1 ≤ s.inputs.cfgFreqHz.toNat → s.inputs.cfgFreqHz.toNat ≤ 400000 →
    (64 ≤ (timingCalc s.inputs.cfgClockHz.toNat m).triseN ∨
      4096 ≤ (timingCalc s.inputs.cfgClockHz.toNat m).divN) →
    ∃ rise div : BitVec 32,
      rise.toNat = (timingCalc s.inputs.cfgClockHz.toNat m).triseN ∧
      div.toNat = (timingCalc s.inputs.cfgClockHz.toNat m).divN ∧
      exec .init s = .next ({ s with block := { s.block with phase := .failed } }.returning
        { Result.zero with
          status := .fault, code := 3, triseN := rise, divN := div,
          fs := (timingCalc s.inputs.cfgClockHz.toNat m).fs,
          duty := (timingCalc s.inputs.cfgClockHz.toNat m).duty })

/-- The enable order of rules R210 to R212 in every INIT, from every state and however the port answers, an INIT that
the host's reset abandons included: timing after disable, enable after timing, acknowledge after enable. -/
def Obligations.InitKeepsTheEnableOrder : Prop :=
  ∀ s t : State, exec .init s = .next t → ∃ l, t.trace = s.trace ++ l ∧ EnableOrder l

/-- What holds in the peripheral after a successful INIT when the bus engine is silent and the peripheral reacts in the
obedient way (rules R112, R209): the timing registers, the own address, `PE`, `ACK` and `ENGC` set and every other bit
of CR as before INIT. The obedient reaction that `QuietFor` fixes is the model's choice (DESIGN CHOICE, log 7), one of
the many that meet the premises of rule R57: that OAR takes the value written, that CR takes it whole, and that SR2 and
DR are as before, is that choice's and no premise's. -/
def Obligations.InitLeavesThePeripheralReady : Prop :=
  ∀ (s : State) (m : BusMode), s.block.phase = .unconfigured → s.resetAfter = none → s.QuietFor 9 →
    busMode s.inputs = some m →
    1 ≤ s.inputs.cfgFreqHz.toNat → s.inputs.cfgFreqHz.toNat ≤ 400000 →
    (timingCalc s.inputs.cfgClockHz.toNat m).triseN < 64 →
    (timingCalc s.inputs.cfgClockHz.toNat m).divN < 4096 →
    ∃ t, exec .init s = .next t ∧ t.block.phase = .ready ∧
      t.per.regs.trise = t.block.triseVal.setWidth 16 ∧
      t.per.regs.ccr =
        BitVec.ofBool t.block.fs ++ BitVec.ofBool t.block.duty ++ (0 : BitVec 2) ++ t.block.divVal ∧
      t.per.regs.oar = (0 : BitVec 8) ++ s.inputs.cfgOwnAddr ++ (0 : BitVec 1) ∧
      t.per.regs.cr = s.per.regs.cr ||| 0x0441 ∧
      t.per.regs.sr2 = s.per.regs.sr2 ∧ t.per.regs.dr = s.per.regs.dr

/-! ### ERRCLR -/

/-- Rule R126: ERRCLR from every ready state: one read of SR1, a write exactly when a flag was set, all seven error
positions 0 and the rest as read, `errs` in the result, and nothing else. -/
def Obligations.ErrclrRuns : Prop :=
  ∀ s : State, s.Ready → ∃ v : Word,
    let l := if v &&& 0xDF00 = 0 then [Access.read .SR1 v]
      else [Access.read .SR1 v, Access.write .SR1 (v &&& ~~~0xDF00)]
    s.answered l ∧ exec .errclr s = .next ((s.performed l).returning { Result.zero with errs := errBits v })

/-- `ERR_MASK` and `ErrBits` (rules R28, R80): the mask of exactly the seven flags, the bits in the source's listing
order, and no flag set exactly when `ErrBits` is 0. -/
def Obligations.ErrBitsOrder : Prop :=
  errMask = 0xDF00 ∧ ∀ v : Word,
    (errBits v).getLsbD 0 = v.getLsbD 8 ∧ (errBits v).getLsbD 1 = v.getLsbD 9 ∧
    (errBits v).getLsbD 2 = v.getLsbD 10 ∧ (errBits v).getLsbD 3 = v.getLsbD 11 ∧
    (errBits v).getLsbD 4 = v.getLsbD 14 ∧ (errBits v).getLsbD 5 = v.getLsbD 12 ∧
    (errBits v).getLsbD 6 = v.getLsbD 15 ∧ (errBits v = 0 ↔ v &&& 0xDF00 = 0)

/-- The property of rule R132: when a flag is set and the port meets `ClearByWriteZero` (rule R49) at ERRCLR's write,
all seven flags are clear after one ERRCLR, and the next read of SR1 shows so if the bus engine takes no step. -/
def Obligations.ErrclrClearsAllSeven : Prop :=
  ∀ s : State, s.Ready →
    errBits (s.answer .SR1) ≠ 0 →
    ClearByWriteZero ((s.access (.read .SR1 (s.answer .SR1))).event
      (.write .SR1 (s.answer .SR1 &&& ~~~0xDF00))) →
    ∃ t, exec .errclr s = .next t ∧ errBits t.per.regs.sr1 = 0 ∧
      (t.move.engine = [] → errBits (t.answer .SR1) = 0)

/-- The other half of rule R132: when ERRCLR's read shows no flag and the port meets `StickyErrors` (rule R48) at that
read, ERRCLR makes no write and reports no error, all seven flags are clear after it, and the next read of SR1 shows
so if the bus engine takes no step. -/
def Obligations.ErrclrLeavesClearFlagsClear : Prop :=
  ∀ s : State, s.Ready →
    errBits (s.answer .SR1) = 0 → StickyErrors (s.event (.read .SR1 (s.answer .SR1))) →
    ∃ t, exec .errclr s = .next t ∧ t.trace = s.trace ++ [.read .SR1 (s.answer .SR1)] ∧ t.result = Result.zero ∧
      errBits t.per.regs.sr1 = 0 ∧ (t.move.engine = [] → errBits (t.answer .SR1) = 0)

/-- The lost-error window (rules R130, R218): whatever ERRCLR's read answers that has a flag, and whatever the bus engine
has made of SR1 by its write, if the port meets `ClearByWriteZero` (rule R49) at that write: `errs` is `ErrBits` of
the value read, no flag is left, and so every flag that was set at the write and not at the read is gone and was
reported in no bit of the result. -/
def Obligations.LostErrorWindow : Prop :=
  ∀ s : State, s.Ready →
    let v := s.answer .SR1
    let s1 := s.access (.read .SR1 v)
    let w := Access.write .SR1 (v &&& ~~~0xDF00)
    errBits v ≠ 0 → ClearByWriteZero (s1.event w) →
    ∃ t, exec .errclr s = .next t ∧ t.result = { Result.zero with errs := errBits v } ∧
      errBits t.per.regs.sr1 = 0 ∧
      ∀ n, (errBits s1.found.regs.sr1).getLsbD n = true → (errBits v).getLsbD n = false →
        t.result.errs.getLsbD n = false ∧ (errBits t.per.regs.sr1).getLsbD n = false

/-! ### DECODE -/

/-- Rule R136: DECODE from every ready state: one read of SR1, then one read of SR2, the event of that snapshot in the
result, and nothing else. -/
def Obligations.DecodeRuns : Prop :=
  ∀ s : State, s.Ready → ∃ v w : Word,
    s.answered [.read .SR1 v, .read .SR2 w] ∧
    exec .decode s = .next ((s.performed [.read .SR1 v, .read .SR2 w]).returning
      { Result.zero with event := (classify (snapshot v w)).code })

/-- Rule R137: the fixed precedence, first match wins, over the bits rules R80 and R81 name; no other bit takes
part. Each event has the code that the table of rule R77 gives it, and code 7 is produced for none. -/
def Obligations.ClassifyIsTheFixedPrecedence : Prop :=
  ∀ s1 s2 : Word,
    let BUSY := s2.getLsbD 1
    let TRA := s2.getLsbD 2
    let ADDR := s1.getLsbD 1
    let BTF := s1.getLsbD 2
    let STOPF := s1.getLsbD 4
    let RXNE := s1.getLsbD 6
    let TXE := s1.getLsbD 7
    let rules : List (Bool × Event × BitVec 3) :=
      [ (BUSY && ADDR && !TRA, .receiverAddressMatched, 1),
        (TRA && BUSY && TXE && ADDR, .transmitterAddressMatched, 2),
        (BUSY && RXNE, .byteReceived, 3),
        (TRA && BUSY && TXE && BTF, .byteTransmitted, 5),
        (TRA && BUSY && TXE, .byteTransmitting, 4),
        (STOPF, .stopDetected, 6),
        (true, .absence, 0) ]
    (rules.find? (fun p => p.1)).map Prod.snd =
      some (classify (snapshot s1 s2), (classify (snapshot s1 s2)).code) ∧
    (classify (snapshot s1 s2)).code ≠ 7

/-- DECODE releases the address match whatever it reports (rules R51, R136): if the port meets `AddrClearSeq` at its
two reads, `ADDR` is 0 after them. -/
def Obligations.DecodeReleasesTheAddressMatch : Prop :=
  ∀ s : State, s.Ready →
    AddrClearSeq (s.event (.read .SR1 (s.answer .SR1))) →
    AddrClearSeq ((s.access (.read .SR1 (s.answer .SR1))).event
      (.read .SR2 ((s.access (.read .SR1 (s.answer .SR1))).answer .SR2))) →
    ∃ t, exec .decode s = .next t ∧ sr1ADDR t.per.regs.sr1 = false

/-- The hazard of rule R219 (rule R141): `BUSY & ADDR & TRA & ~TXE & ~RXNE & ~STOPF` decodes to the absence, and the
address match is gone, if the port meets `AddrClearSeq` (rule R51) at the two reads. -/
def Obligations.AddressMatchConsumedUnreported : Prop :=
  ∀ s : State, s.Ready →
    let v := s.answer .SR1
    let s1 := s.access (.read .SR1 v)
    let w := s1.answer .SR2
    AddrClearSeq (s.event (.read .SR1 v)) → AddrClearSeq (s1.event (.read .SR2 w)) →
    (snapshot v w).busy = true → (snapshot v w).addr = true → (snapshot v w).tra = true →
    (snapshot v w).txe = false → (snapshot v w).rxne = false → (snapshot v w).stopf = false →
    ∃ t, exec .decode s = .next t ∧ t.result = Result.zero ∧ sr1ADDR t.per.regs.sr1 = false

/-- Every value a status read returns is a draw of the environment (rule R46): for any two values there is an
environment under which DECODE reads exactly them. -/
def Obligations.DecodeMaySeeAnySnapshot : Prop :=
  ∀ (s : State) (v w : Word), s.Ready → ∃ env t,
    exec .decode { s with env := env } = .next t ∧
    t.trace = s.trace ++ [.read .SR1 v, .read .SR2 w] ∧
    t.result = { Result.zero with event := (classify (snapshot v w)).code }

/-! ### SEND and RECV -/

/-- Rule R151: the word 0x6000 | `imm8` is SEND of that byte; SEND is refused when hidden or not ready; and from every
ready state it makes exactly one write of DR with the byte in bits [7:0] and 0 above, whatever the status bits are,
with `tx_req` in the result and nothing else. -/
def Obligations.SendRuns : Prop :=
  ∀ b : Byte, decodeWord (0x6000 ||| b.setWidth 16) = .ok (.send b) ∧ GatedComponent (.send b) ∧
    ∀ s : State, s.Ready →
      exec (.send b) s = .next ((s.performed [.write .DR ((0 : BitVec 8) ++ b)]).returning
        { Result.zero with txReq := true })

/-- Rule R152: the word 0x7000 is RECV; RECV is refused when hidden or not ready; and from every ready state it makes
exactly one read of DR, whatever the status bits are, with bits [7:0] of the answer in `rx_byte`, `rx_valid` set and
nothing else. -/
def Obligations.RecvRuns : Prop :=
  decodeWord 0x7000 = .ok .recv ∧ GatedComponent .recv ∧
    ∀ s : State, s.Ready → ∃ v : Word,
      s.answered [.read .DR v] ∧
      exec .recv s = .next ((s.performed [.read .DR v]).returning
        { Result.zero with rxByte := v.extractLsb' 0 8, rxValid := true })

/-! ### ADDRACK, STOPACK, STOPCLR -/

/-- Rule R159: ADDRACK from every ready state: one read of SR1, a read of SR2 exactly when it showed `ADDR`; nothing
in the result; nothing else. -/
def Obligations.AddrackRuns : Prop :=
  ∀ s : State, s.Ready → ∃ v w : Word,
    let l := if v.getLsbD 1 then [Access.read .SR1 v, Access.read .SR2 w] else [Access.read .SR1 v]
    s.answered l ∧ exec .addrack s = .next ((s.performed l).returning Result.zero)

/-- Rule R161: STOPACK from every ready state: `n` rounds (read SR1, read CR, write CR with `ACK` set and every other
bit as read), then the read that ends the loop; `iters` = `n`; the fault exactly when the ninth read still shows
`STOPF`; nothing else. -/
def Obligations.StopackRuns : Prop :=
  ∀ s : State, s.Ready → ∃ (rounds : List (Word × Word)) (last : Word),
    StopackRun rounds last ∧ s.answered (stopackAccesses rounds last) ∧
    exec .stopack s = .next ((s.performed (stopackAccesses rounds last)).returning
      (stopackResult Result.zero rounds.length last))

/-- STOPACK converges in one iteration, or in none when the flag is clear at entry, when the bus engine is silent and the
peripheral reacts in the obedient way (rules R52, R161). The obedient reaction that `QuietFor` fixes is the model's
choice (DESIGN CHOICE, log 7), one of the many that meet the premises of rule R57. -/
def Obligations.StopackConvergesInTheObedientPeripheral : Prop :=
  ∀ s : State, s.Ready → s.QuietFor 4 →
    ∃ t, exec .stopack s = .next t ∧ sr1STOPF t.per.regs.sr1 = false ∧
      t.result = { Result.zero with iters := if sr1STOPF s.per.regs.sr1 then 1 else 0 }

/-- STOPACK converges in one iteration under the premises (rules R52, R161, R162): if its first read of SR1 shows `STOPF`,
the port meets `StopClearSeq` at that read and at the write of CR and `CrReadsArePure` at the read of CR between them,
and the bus engine takes no step between that write and the next read of SR1, then that read shows `STOPF` clear and
STOPACK ends `Ok` with `iters` = 1, whatever else the peripheral does. With `STOPF` clear at the first read it ends
there, with no premise and `iters` = 0. -/
def Obligations.StopackConvergesInOneIteration : Prop :=
  ∀ s : State, s.Ready →
    let first := Access.read .SR1 (s.answer .SR1)
    let s1 := s.access first
    let read := Access.read .CR (s1.answer .CR)
    let s2 := s1.access read
    let write := Access.write .CR (s1.answer .CR ||| 0x0400)
    let s3 := s2.access write
    (sr1STOPF (s.answer .SR1) = false → exec .stopack s = .next (s1.returning Result.zero)) ∧
    (sr1STOPF (s.answer .SR1) = true →
      StopClearSeq (s.event first) → CrReadsArePure (s1.event read) → StopClearSeq (s2.event write) →
      s3.move.engine = [] →
      sr1STOPF (s3.answer .SR1) = false ∧
      exec .stopack s =
        .next ((s3.access (.read .SR1 (s3.answer .SR1))).returning { Result.zero with iters := 1 }))

/-- Rule R163: when every read of SR1 shows `STOPF`, whatever the peripheral does otherwise and whatever CR reads as, the
accesses are eight rounds and a ninth read of SR1: 9 reads of SR1, 8 reads and 8 writes of CR, nothing else; then the
fault, code 5, with `iters` = 8; the block state is as it was, and the SEU is ready for the next command. -/
def Obligations.StopackNonConvergence : Prop :=
  ∀ (s : State) (rounds : List (Word × Word)) (last : Word), s.Ready →
    rounds.length = 8 → s.answered (stopackAccesses rounds last) →
    (∀ p ∈ rounds, sr1STOPF p.1 = true) → sr1STOPF last = true →
    exec .stopack s = .next ((s.performed (stopackAccesses rounds last)).returning
      { Result.zero with status := .fault, code := 5, iters := 8 }) ∧
    readCount .SR1 (stopackAccesses rounds last) = 9 ∧ readCount .CR (stopackAccesses rounds last) = 8 ∧
    writeCount .CR (stopackAccesses rounds last) = 8 ∧ (stopackAccesses rounds last).length = 25 ∧
    ∀ t, exec .stopack s = .next t → t.block = s.block ∧ t.Ready

/-- Rule R165: STOPCLR from every ready state: ADDRACK's accesses, then STOPACK's, with STOPACK's result. -/
def Obligations.StopclrRuns : Prop :=
  ∀ s : State, s.Ready → ∃ (v w : Word) (rounds : List (Word × Word)) (last : Word),
    StopackRun rounds last ∧
    s.answered (addrackAccesses v w ++ stopackAccesses rounds last) ∧
    exec .stopclr s = .next ((s.performed (addrackAccesses v w ++ stopackAccesses rounds last)).returning
      (stopackResult Result.zero rounds.length last))

/-! ### POLL -/

/-- Rule R171: POLL from every state in phase `Ready`: ERRCLR's accesses, DECODE's, then those of the one dispatched
operation. `ByteReceived`: one read of DR, and that byte on the sink (rules R174, R175). The three transmit events:
one write of the `tx_data` in force at that instant, `tx_first` exactly for `TransmitterAddressMatched` (rules R176,
R177). `StopDetected`: STOPCLR, whose fault keeps `errs` and `event`. Otherwise nothing. -/
def Obligations.PollRuns : Prop :=
  ∀ s : State, s.block.phase = .ready → s.resetAfter = none → ∃ e v w : Word,
    let l := errclrAccesses e ++ [.read .SR1 v, .read .SR2 w]
    let ev := classify (snapshot v w)
    let r := { Result.zero with errs := errBits e, event := ev.code }
    s.answered l ∧
    (ev = .absence ∨ ev = .receiverAddressMatched → exec .poll s = .next ((s.performed l).returning r)) ∧
    (ev = .byteReceived → ∃ d : Word, s.answered (l ++ [.read .DR d]) ∧
      exec .poll s = .next (((s.performed (l ++ [.read .DR d])).emitted (d.setWidth 8)).returning
        { r with rxByte := d.setWidth 8, rxValid := true })) ∧
    (ev = .transmitterAddressMatched ∨ ev = .byteTransmitted ∨ ev = .byteTransmitting →
      exec .poll s =
        .next ((s.performed (l ++ [.write .DR ((s.performed l).inputs.txData.setWidth 16)])).returning
          { r with txReq := true, txFirst := ev == .transmitterAddressMatched })) ∧
    (ev = .stopDetected → ∃ (a b : Word) (rounds : List (Word × Word)) (last : Word),
      StopackRun rounds last ∧
      s.answered (l ++ (addrackAccesses a b ++ stopackAccesses rounds last)) ∧
      exec .poll s =
        .next ((s.performed (l ++ (addrackAccesses a b ++ stopackAccesses rounds last))).returning
          (stopackResult r rounds.length last)))

/-- The property of rule R174: a POLL that reports `ByteReceived` reads DR exactly once, writes it never, and forwards
exactly the byte read to the sink. -/
def Obligations.PollForwardsTheReceivedByte : Prop :=
  ∀ s t : State, s.resetAfter = none → exec .poll s = .next t → t.result.event = 3 →
    ∃ l d, t.trace = s.trace ++ l ∧ readCount .DR l = 1 ∧ .read .DR d ∈ l ∧ (∀ x, .write .DR x ∉ l) ∧
      t.sink = s.sink ++ [d.setWidth 8] ∧ t.result.rxByte = d.setWidth 8 ∧ t.result.rxValid = true

/-- No operation makes more than 31 port accesses, however the port answers and whenever the host resets (rules R178,
R180): POLL at most 31, INIT at most 9, STOPCLR at most 27, the rest fewer. -/
def Obligations.OperationsAreBounded : Prop :=
  ∀ (i : Instr) (s t : State), exec i s = .next t →
    ∃ l, t.trace = s.trace ++ l ∧ l.length ≤ 31 ∧ (i = .init → l.length ≤ 9) ∧
      (i = .stopclr → l.length ≤ 27) ∧ (i = .stopack → l.length ≤ 25) ∧
      (i ≠ .poll → i ≠ .init → i ≠ .stopclr → i ≠ .stopack → l.length ≤ 2)

/-! ### Frames -/

/-- What an operation leaves alone when the host does not reset during it: every block state element but in INIT; the
straps, the host's further actions, the reset count and every input but `tx_data` always; the sink but in POLL
(rules R10, R117, R154, R175, R181). -/
def Obligations.OperationsLeaveTheRestAlone : Prop :=
  ∀ (i : Instr) (s t : State), s.resetAfter = none → exec i s = .next t →
    SameSurroundings s t ∧ (i ≠ .init → t.block = s.block) ∧ (i ≠ .poll → t.sink = s.sink) ∧
      t.returned = true ∧ t.resetAfter = none

/-- Rule R216: how often each accepted operation reads SR1, SR2 and DR. -/
def Obligations.StatusReadsAreCounted : Prop :=
  ∀ (i : Instr) (s t : State), s.resetAfter = none → exec i s = .next t → t.result.status ≠ .refused →
    ∃ l, t.trace = s.trace ++ l ∧
      match i with
      | .init | .tcalc | .send _ => readCount .SR1 l = 0 ∧ readCount .SR2 l = 0 ∧ readCount .DR l = 0
      | .errclr => readCount .SR1 l = 1 ∧ readCount .SR2 l = 0 ∧ readCount .DR l = 0
      | .decode => readCount .SR1 l = 1 ∧ readCount .SR2 l = 1 ∧ readCount .DR l = 0
      | .recv => readCount .SR1 l = 0 ∧ readCount .SR2 l = 0 ∧ readCount .DR l = 1
      | .addrack => readCount .SR1 l = 1 ∧ readCount .SR2 l ≤ 1 ∧ readCount .DR l = 0
      | .stopack => readCount .SR1 l = t.result.iters.toNat + 1 ∧ readCount .SR2 l = 0 ∧ readCount .DR l = 0
      | .stopclr => readCount .SR1 l = t.result.iters.toNat + 2 ∧ readCount .SR2 l ≤ 1 ∧ readCount .DR l = 0
      | .poll =>
        if t.result.event = 6 then
          readCount .SR1 l = t.result.iters.toNat + 4 ∧
            (readCount .SR2 l = 1 ∨ readCount .SR2 l = 2) ∧ readCount .DR l = 0
        else readCount .SR1 l = 2 ∧ readCount .SR2 l = 1 ∧
          readCount .DR l = if t.result.event = 3 then 1 else 0

/-- Which operation may write which register and which registers are never read (rules R20, R27, R181, R212): in every
run, a reset in its middle included. -/
def Obligations.RegistersByOperation : Prop :=
  ∀ (i : Instr) (s t : State), exec i s = .next t → ∃ l, t.trace = s.trace ++ l ∧
    ∀ a ∈ l, match a with
      | .write .CR _ => i = .init ∨ i = .stopack ∨ i = .stopclr ∨ i = .poll
      | .write .TRISE _ | .write .CCR _ | .write .OAR _ => i = .init
      | .write .SR1 _ => i = .errclr ∨ i = .poll
      | .write .SR2 _ => False
      | .write .DR _ => i = .poll ∨ ∃ b, i = .send b
      | .read .CR _ => i = .init ∨ i = .stopack ∨ i = .stopclr ∨ i = .poll
      | .read .TRISE _ | .read .CCR _ | .read .OAR _ => False
      | .read .SR1 _ => i = .errclr ∨ i = .decode ∨ i = .addrack ∨ i = .stopack ∨ i = .stopclr ∨ i = .poll
      | .read .SR2 _ => i = .decode ∨ i = .addrack ∨ i = .stopclr ∨ i = .poll
      | .read .DR _ => i = .recv ∨ i = .poll

/-- The frame on the peripheral's own registers when the bus engine is silent and the peripheral reacts in the obedient
way that `QuietFor` fixes. That reaction is the model's choice (DESIGN CHOICE, log 7), one of the many that meet the
premises of rule R57; that accesses of DR change no register (N12), and that nothing moves but what is named here, is
that choice's and no premise's.
An operation other than INIT leaves TRISE, CCR, OAR, SR2 and DR as they were, CR but for an `ACK` set by a
stop-acknowledgment, and SR1 but for error flags, `ADDR` and `STOPF` going to 0; SEND, RECV and TCALC leave all seven
(rules R21, R48 to R56). -/
def Obligations.PeripheralFrame : Prop :=
  ∀ (i : Instr) (s t : State), i ≠ .init → s.resetAfter = none → s.QuietFor 31 → exec i s = .next t →
    t.per.regs =
      { s.per.regs with cr := t.per.regs.cr, sr1 := t.per.regs.sr1 } ∧
    t.per.regs.cr &&& ~~~0x0400 = s.per.regs.cr &&& ~~~0x0400 ∧
    (crPE s.per.regs.cr = true → s.per.regs.cr &&& ~~~t.per.regs.cr = 0) ∧
    (t.per.regs.sr1 ||| 0xDF12 = s.per.regs.sr1 ||| 0xDF12) ∧
    t.per.regs.sr1 &&& ~~~s.per.regs.sr1 = 0 ∧
    ((i = .recv ∨ i = .tcalc ∨ ∃ b, i = .send b) → t.per.regs = s.per.regs) ∧
    (i ≠ .stopack → i ≠ .stopclr → i ≠ .poll → t.per.regs.cr = s.per.regs.cr) ∧
    (i ≠ .poll → (∀ b, i ≠ .send b) → t.per.txByte = s.per.txByte)

/-! ### The port and its environment -/

/-- The offsets of rule R78; a two-byte access at a register's offset is the access of that register (rule R40); an access
of any other size or at any other address is refused as unreachable (rules R40, R42), which the model renders as the
stop `unreachable` (DEDUCED, log 15). -/
def Obligations.PortReachesTheSevenRegistersOnly : Prop :=
  (offset .CR = 0x00 ∧ offset .OAR = 0x08 ∧ offset .DR = 0x10 ∧ offset .SR1 = 0x14 ∧ offset .SR2 = 0x18 ∧
    offset .CCR = 0x1C ∧ offset .TRISE = 0x20) ∧
  (∀ (r : Reg) (v : Word) (s : State), s.resetAfter = none →
    memRead (offset r) 2 s = .ok (s.answer r) (s.access (.read r (s.answer r))) ∧
    memWrite (offset r) 2 v s = .ok () (s.access (.write r v))) ∧
  (∀ (a n : Nat) (v : Word) (s : State), (∀ r, ¬(n = 2 ∧ a = offset r)) →
    memRead a n s = .error (.unreachable a) s ∧ memWrite a n v s = .error (.unreachable a) s)

/-- The reaction the model gives an obedient peripheral meets every premise of rule R57, at every access before which
the bus engine clears no error flag: the premises contradict neither each other nor the model. The reaction is the
model's choice (DESIGN CHOICE, log 7), and so is that the premises are said of one access (log 19). -/
def Obligations.ObedientPeripheralMeetsThePremises : Prop :=
  ∀ (s : State) (a : Access), s.move.react = none →
    s.per.regs.sr1 &&& 0xDF00 &&& ~~~s.found.regs.sr1 = 0 → Premises (s.event a)

/-! ### Reset, life cycle, invariant -/

/-- Rule R206 with rule R205: the host's reset between commands sets the phase to `Unconfigured`, makes no register
access and leaves the peripheral, the inputs, the sink and the environment as they were; the host gets nothing
back (rule R203). That the result record then shows all 0 and is marked not returned is the model's choice (DESIGN
CHOICE, log 11). -/
def Obligations.HostResetTouchesNoRegister : Prop :=
  ∀ (s : State) (rest : List HostAction), s.host = .reset :: rest →
    ∃ b : Block, b.phase = .unconfigured ∧
      step s = .next { s with
        host := rest, block := b, result := Result.zero, returned := false,
        resets := s.resets + 1, resetAfter := none }

/-- A reset during an operation abandons the operation, and accesses already made stay made (rule R205): if without a
reset the operation makes the accesses `l`, then with the reset input asserted after `k` outward actions exactly the
first `k` accesses of `l` are made, or all of them where they are fewer, the peripheral is as those leave it, the byte
for the sink goes out only when `k` is past all accesses, and the block is reset with nothing returned. That the
operation looks at the reset input before each outward action and before it returns, and at no other point, is the
model's choice (DESIGN CHOICE, log 8). -/
def Obligations.ResetAbandonsTheOperation : Prop :=
  ∀ (i : Instr) (s t : State) (l : List Access) (k : Nat),
    exec i { s with resetAfter := none } = .next t → t.trace = s.trace ++ l →
    ∃ u, exec i { s with resetAfter := some k } = .next u ∧
      u.trace = s.trace ++ l.take k ∧ u.per = (s.performed (l.take k)).per ∧
      u.sink = (if k ≤ l.length then s.sink else t.sink) ∧
      u.block.phase = .unconfigured ∧ u.returned = false ∧ u.resets = s.resets + 1

/-- A reset input asserted during any command, legal or not, accepted or refused, ends the command with the block reset:
the phase is `Unconfigured` and nothing is returned (rules R203, R205); the accesses that were made and the peripheral
stay, the straps and every input but `tx_data` are those presented. That the reset arrives at the latest before the
record is returned (log 8) and that the record then shows all 0 (log 11) is the model's choice. -/
def Obligations.ResetDuringACommandResetsTheBlock : Prop :=
  ∀ (s : State) (w : Command) (inputs : Inputs) (k : Nat) (rest : List HostAction),
    s.host = .command w inputs (some k) :: rest →
    ∃ t, step s = .next t ∧ t.block.phase = .unconfigured ∧ t.returned = false ∧ t.result = Result.zero ∧
      t.resets = s.resets + 1 ∧ t.resetAfter = none ∧ t.host = rest ∧ t.straps = s.straps ∧
      { t.inputs with txData := inputs.txData } = inputs ∧ ∃ l, t.trace = s.trace ++ l ∧ l.length ≤ k

/-- After reset INIT and TCALC are the commands accepted: every other is refused `NotReady`, and INIT and TCALC are
refused at most for an illegal mode (rule R36); the phase is `Unconfigured` (rule R35). -/
def Obligations.AfterResetOnlyInitAndTcalcRun : Prop :=
  State.reset.block.phase = .unconfigured ∧
  ∀ (inputs : Inputs) (i : Instr),
    (i ≠ .init → i ≠ .tcalc →
      exec i { State.reset with inputs := inputs } =
        .next ({ State.reset with inputs := inputs }.returning
          { Result.zero with status := .refused, code := 2 })) ∧
    (i = .init ∨ i = .tcalc → ∃ t, exec i { State.reset with inputs := inputs } = .next t ∧
      (t.result.status = .refused → t.result.code = 4))

/-- The life cycle over every step of every state (rules R11, R12, R117, R187, R205): the block state changes only by
a reset, which makes the phase `Unconfigured`, or by an INIT in phase `Unconfigured`, which makes it `Ready`, or
`Failed` with every other element as it was. In particular nothing but a reset leaves `Ready` or `Failed`. -/
def Obligations.LifeCycle : Prop :=
  ∀ s t : State, step s = .next t →
    t.block = s.block ∨
    (t.resets = s.resets + 1 ∧ t.block.phase = .unconfigured) ∨
    (s.block.phase = .unconfigured ∧
      (∃ w inputs k rest, s.host = .command w inputs k :: rest ∧ decodeWord w = .ok .init) ∧
      (t.block.phase = .ready ∨ t.block = { s.block with phase := .failed }))

/-- Nothing but the phase of the block state that an operation finds has an effect (rules R10, R13, R35): from two states
that differ only in other elements of it, every operation makes the same accesses, ends with the same result and the
same state but for the block state, and in the same phase. The elements INIT's TAPPLY and SETADDR read (rule R10) are
ones that INIT has just written; the four stored parameters have no effect at all (rule R13, which the spec derives,
and log 16). -/
def Obligations.OldBlockElementsHaveNoEffect : Prop :=
  ∀ (i : Instr) (s t : State) (b : Block), b.phase = s.block.phase → exec i s = .next t →
    ∃ t', exec i { s with block := b } = .next t' ∧ { t' with block := t.block } = t ∧
      t'.block.phase = t.block.phase

/-- Every step keeps the invariant: in phase `Ready` the TimingParameters and the own address are ones a successful
INIT leaves (rules R11, R12, R107), the result record is one the SEU can return (rules R76, R77, R163, R186, R190),
and only accesses the rules allow have been made (rules R20, R27, R82 to R84, R126, R151). -/
def Obligations.StepKeepsTheInvariant : Prop :=
  ∀ s t : State, s.Inv → step s = .next t → t.Inv

/-- The state after power-on reset has the invariant. Of that state rule R35 gives the phase alone. That its result
record is all 0, a record the SEU could have returned, is the model's choice (DESIGN CHOICE, log 11), and so is that
the list of accesses made is empty (DESIGN CHOICE, log 12). -/
def Obligations.ResetHasTheInvariant : Prop := State.reset.Inv
end

