-- ==== Sys2Proof/Laws/Operands.lean ====
section
/-! SUPPORT. The values of the registers as the rules write them, from the fields of LAYOUT (rules R82 to R84, R87). -/

namespace Sys2Proof.Machine

/-- A value placed in a field at bit 0 that is as wide as the value is the value, zero extended. -/
theorem BitField.place_low {n : Nat} (x : BitVec n) :
    BitField.place { lo := 0, width := n } x.toNat = x.setWidth Config.regw := by
  apply BitVec.eq_of_toNat_eq
  simp [BitField.place, Nat.mod_eq_of_lt x.isLt]

/-- The `TRISE` value is `zext_16(trise)` (rules R83, R110). -/
theorem triseValue_eq (t : BitVec 6) : triseValue t = t.setWidth Config.regw := BitField.place_low t

/-- The `DR` value is `zext_16(b)` (rule R151). -/
theorem drValue_eq (b : Byte) : drValue b = b.setWidth Config.regw := BitField.place_low b

/-- The byte of a `DR` value is its bits [7:0] (rule R152). -/
theorem drByte_eq (v : Word) : drByte v = v.setWidth 8 := by
  apply BitVec.eq_of_toNat_eq
  simp [drByte, BitField.read, Config.layout]

/-- The `OAR` value is `zext_16(S.OWN_ADDR)` (rules R87, R121). -/
theorem oarValue_ownAddress (a : BitVec 7) : oarValue (ownAddress a) = (0 : BitVec 8) ++ a ++ (0 : BitVec 1) := by
  revert a
  decide

/-- `CcrValue` is the concatenation of its fields (rules R11, R82). -/
theorem ccrValue_eq (div : BitVec 12) (fs duty : Bool) :
    ccrValue div fs duty = BitVec.ofBool fs ++ BitVec.ofBool duty ++ (0 : BitVec 2) ++ div := by
  have hd : div.toNat % 2 ^ Config.regw = div.toNat := Nat.mod_eq_of_lt (div.isLt.trans (by decide))
  have hp : BitField.place Config.layout.ccrv div.toNat = div.setWidth Config.regw := BitField.place_low div
  rw [ccrValue, hp]
  cases fs <;> cases duty <;> apply BitVec.eq_of_toNat_eq <;>
    simp only [bitMask, Config.layout, BitVec.toNat_or, BitVec.toNat_setWidth, hd]
  · exact (BitVec.toNat_append 0#4 div).symm
  · exact (BitVec.toNat_append 4#4 div).symm
  · exact (BitVec.toNat_append 8#4 div).symm
  · exact (BitVec.toNat_append 12#4 div).symm

/-- The reserved bits 13:12 of a `CcrValue` are 0 (rule R82). -/
theorem ccrValue_reserved (div : BitVec 12) (fs duty : Bool) : ccrValue div fs duty &&& 0x3000 = 0 := by
  have h : (0x3000 : Word) = (0 : BitVec 1) ++ (0 : BitVec 1) ++ (0x3 : BitVec 2) ++ (0 : BitVec 12) := by decide
  rw [ccrValue_eq, h]
  change (_ ++ div : BitVec (1 + 1 + 2 + 12)) &&& (_ ++ 0#12) = _
  rw [BitVec.and_append, BitVec.and_append]
  simp

/-- A scaled timeout never wraps: 32 bits times 32 bits fit 64 (rule R116). -/
theorem scaledTimeout_toNat (us c : BitVec 32) : (scaledTimeout us c).toNat = us.toNat * c.toNat := by
  have h : us.toNat * c.toNat < 2 ^ 64 := by
    calc us.toNat * c.toNat < 2 ^ 32 * 2 ^ 32 := Nat.mul_lt_mul'' us.isLt c.isLt
      _ = 2 ^ 64 := by norm_num
  rw [scaledTimeout, BitVec.toNat_ofNat, Nat.mod_eq_of_lt h]

end Sys2Proof.Machine
end

