-- ==== Sys2Proof/Laws/State.lean ====
section
/-! SUPPORT. One lemma per field of State per update of it, true by rfl; and how the updates pass one another, so that
no proof unfolds a record update. -/

namespace Sys2Proof.Machine

variable (s : State)

/-! ### `State.access` -/

@[simp] theorem State.access_block (a : Access) : (s.access a).block = s.block := rfl
@[simp] theorem State.access_per (a : Access) : (s.access a).per = s.left a := rfl
@[simp] theorem State.access_inputs (a : Access) : (s.access a).inputs = s.inputsAfter := rfl
@[simp] theorem State.access_result (a : Access) : (s.access a).result = s.result := rfl
@[simp] theorem State.access_returned (a : Access) : (s.access a).returned = s.returned := rfl
@[simp] theorem State.access_sink (a : Access) : (s.access a).sink = s.sink := rfl
@[simp] theorem State.access_trace (a : Access) : (s.access a).trace = s.trace ++ [a] := rfl
@[simp] theorem State.access_host (a : Access) : (s.access a).host = s.host := rfl
@[simp] theorem State.access_env (a : Access) : (s.access a).env = s.env.tail := rfl
@[simp] theorem State.access_draws (a : Access) : (s.access a).draws = s.draws + 1 := rfl
@[simp] theorem State.access_resets (a : Access) : (s.access a).resets = s.resets := rfl
@[simp] theorem State.access_resetAfter (a : Access) : (s.access a).resetAfter = s.resetAfter.map (fun k => k - 1) := rfl
@[simp] theorem State.access_straps (a : Access) : (s.access a).straps = s.straps := rfl

/-! ### `State.withResult` -/

@[simp] theorem State.withResult_block (f : Result → Result) : (s.withResult f).block = s.block := rfl
@[simp] theorem State.withResult_per (f : Result → Result) : (s.withResult f).per = s.per := rfl
@[simp] theorem State.withResult_inputs (f : Result → Result) : (s.withResult f).inputs = s.inputs := rfl
@[simp] theorem State.withResult_result (f : Result → Result) : (s.withResult f).result = f s.result := rfl
@[simp] theorem State.withResult_returned (f : Result → Result) : (s.withResult f).returned = s.returned := rfl
@[simp] theorem State.withResult_sink (f : Result → Result) : (s.withResult f).sink = s.sink := rfl
@[simp] theorem State.withResult_trace (f : Result → Result) : (s.withResult f).trace = s.trace := rfl
@[simp] theorem State.withResult_host (f : Result → Result) : (s.withResult f).host = s.host := rfl
@[simp] theorem State.withResult_env (f : Result → Result) : (s.withResult f).env = s.env := rfl
@[simp] theorem State.withResult_draws (f : Result → Result) : (s.withResult f).draws = s.draws := rfl
@[simp] theorem State.withResult_resets (f : Result → Result) : (s.withResult f).resets = s.resets := rfl
@[simp] theorem State.withResult_resetAfter (f : Result → Result) : (s.withResult f).resetAfter = s.resetAfter := rfl
@[simp] theorem State.withResult_straps (f : Result → Result) : (s.withResult f).straps = s.straps := rfl

/-! ### `State.withBlock` -/

@[simp] theorem State.withBlock_block (f : Block → Block) : (s.withBlock f).block = f s.block := rfl
@[simp] theorem State.withBlock_per (f : Block → Block) : (s.withBlock f).per = s.per := rfl
@[simp] theorem State.withBlock_inputs (f : Block → Block) : (s.withBlock f).inputs = s.inputs := rfl
@[simp] theorem State.withBlock_result (f : Block → Block) : (s.withBlock f).result = s.result := rfl
@[simp] theorem State.withBlock_returned (f : Block → Block) : (s.withBlock f).returned = s.returned := rfl
@[simp] theorem State.withBlock_sink (f : Block → Block) : (s.withBlock f).sink = s.sink := rfl
@[simp] theorem State.withBlock_trace (f : Block → Block) : (s.withBlock f).trace = s.trace := rfl
@[simp] theorem State.withBlock_host (f : Block → Block) : (s.withBlock f).host = s.host := rfl
@[simp] theorem State.withBlock_env (f : Block → Block) : (s.withBlock f).env = s.env := rfl
@[simp] theorem State.withBlock_draws (f : Block → Block) : (s.withBlock f).draws = s.draws := rfl
@[simp] theorem State.withBlock_resets (f : Block → Block) : (s.withBlock f).resets = s.resets := rfl
@[simp] theorem State.withBlock_resetAfter (f : Block → Block) : (s.withBlock f).resetAfter = s.resetAfter := rfl
@[simp] theorem State.withBlock_straps (f : Block → Block) : (s.withBlock f).straps = s.straps := rfl

/-! ### `State.emitted` -/

@[simp] theorem State.emitted_block (b : Byte) : (s.emitted b).block = s.block := rfl
@[simp] theorem State.emitted_per (b : Byte) : (s.emitted b).per = s.per := rfl
@[simp] theorem State.emitted_inputs (b : Byte) : (s.emitted b).inputs = s.inputs := rfl
@[simp] theorem State.emitted_result (b : Byte) : (s.emitted b).result = s.result := rfl
@[simp] theorem State.emitted_returned (b : Byte) : (s.emitted b).returned = s.returned := rfl
@[simp] theorem State.emitted_sink (b : Byte) : (s.emitted b).sink = s.sink ++ [b] := rfl
@[simp] theorem State.emitted_trace (b : Byte) : (s.emitted b).trace = s.trace := rfl
@[simp] theorem State.emitted_host (b : Byte) : (s.emitted b).host = s.host := rfl
@[simp] theorem State.emitted_env (b : Byte) : (s.emitted b).env = s.env := rfl
@[simp] theorem State.emitted_draws (b : Byte) : (s.emitted b).draws = s.draws := rfl
@[simp] theorem State.emitted_resets (b : Byte) : (s.emitted b).resets = s.resets := rfl
@[simp] theorem State.emitted_resetAfter (b : Byte) : (s.emitted b).resetAfter = s.resetAfter.map (fun k => k - 1) := rfl
@[simp] theorem State.emitted_straps (b : Byte) : (s.emitted b).straps = s.straps := rfl

/-! ### `State.begun` -/

@[simp] theorem State.begun_block : (s.begun).block = s.block := rfl
@[simp] theorem State.begun_per : (s.begun).per = s.per := rfl
@[simp] theorem State.begun_inputs : (s.begun).inputs = s.inputs := rfl
@[simp] theorem State.begun_result : (s.begun).result = Result.zero := rfl
@[simp] theorem State.begun_returned : (s.begun).returned = false := rfl
@[simp] theorem State.begun_sink : (s.begun).sink = s.sink := rfl
@[simp] theorem State.begun_trace : (s.begun).trace = s.trace := rfl
@[simp] theorem State.begun_host : (s.begun).host = s.host := rfl
@[simp] theorem State.begun_env : (s.begun).env = s.env := rfl
@[simp] theorem State.begun_draws : (s.begun).draws = s.draws := rfl
@[simp] theorem State.begun_resets : (s.begun).resets = s.resets := rfl
@[simp] theorem State.begun_resetAfter : (s.begun).resetAfter = s.resetAfter := rfl
@[simp] theorem State.begun_straps : (s.begun).straps = s.straps := rfl

/-! ### `State.ended` -/

/-- With no reset asserted, the result record is returned. -/
theorem State.ended_of_none {s : State} (h : s.resetAfter = none) (st : Status) (code : BitVec 4) :
    s.ended st code = s.returning { s.result with status := st, code := code } := by
  simp only [State.ended, h, State.returning]

/-- With a reset asserted, the block is reset and nothing is returned. -/
theorem State.ended_of_some {s : State} {k : Nat} (h : s.resetAfter = some k) (st : Status) (code : BitVec 4) :
    s.ended st code = s.hostReset := by
  simp only [State.ended, h]

/-- Everything the end of a command can be. -/
theorem State.ended_cases (st : Status) (code : BitVec 4) :
    (s.resetAfter = none ∧ s.ended st code = s.returning { s.result with status := st, code := code }) ∨
    (s.resetAfter ≠ none ∧ s.ended st code = s.hostReset) := by
  cases h : s.resetAfter with
  | none => exact .inl ⟨rfl, State.ended_of_none h st code⟩
  | some k => exact .inr ⟨by simp, State.ended_of_some h st code⟩

@[simp] theorem State.ended_per (st : Status) (code : BitVec 4) : (s.ended st code).per = s.per := by
  unfold State.ended; split <;> rfl
@[simp] theorem State.ended_inputs (st : Status) (code : BitVec 4) : (s.ended st code).inputs = s.inputs := by
  unfold State.ended; split <;> rfl
@[simp] theorem State.ended_sink (st : Status) (code : BitVec 4) : (s.ended st code).sink = s.sink := by
  unfold State.ended; split <;> rfl
@[simp] theorem State.ended_trace (st : Status) (code : BitVec 4) : (s.ended st code).trace = s.trace := by
  unfold State.ended; split <;> rfl
@[simp] theorem State.ended_host (st : Status) (code : BitVec 4) : (s.ended st code).host = s.host := by
  unfold State.ended; split <;> rfl
@[simp] theorem State.ended_env (st : Status) (code : BitVec 4) : (s.ended st code).env = s.env := by
  unfold State.ended; split <;> rfl
@[simp] theorem State.ended_draws (st : Status) (code : BitVec 4) : (s.ended st code).draws = s.draws := by
  unfold State.ended; split <;> rfl
@[simp] theorem State.ended_resetAfter (st : Status) (code : BitVec 4) : (s.ended st code).resetAfter = none := by
  unfold State.ended; split <;> rfl
@[simp] theorem State.ended_straps (st : Status) (code : BitVec 4) : (s.ended st code).straps = s.straps := by
  unfold State.ended; split <;> rfl

/-! ### `State.hostReset` -/

@[simp] theorem State.hostReset_block : (s.hostReset).block = unspecifiedBlock s.resets := rfl
@[simp] theorem State.hostReset_per : (s.hostReset).per = s.per := rfl
@[simp] theorem State.hostReset_inputs : (s.hostReset).inputs = s.inputs := rfl
@[simp] theorem State.hostReset_result : (s.hostReset).result = Result.zero := rfl
@[simp] theorem State.hostReset_returned : (s.hostReset).returned = false := rfl
@[simp] theorem State.hostReset_sink : (s.hostReset).sink = s.sink := rfl
@[simp] theorem State.hostReset_trace : (s.hostReset).trace = s.trace := rfl
@[simp] theorem State.hostReset_host : (s.hostReset).host = s.host := rfl
@[simp] theorem State.hostReset_env : (s.hostReset).env = s.env := rfl
@[simp] theorem State.hostReset_draws : (s.hostReset).draws = s.draws := rfl
@[simp] theorem State.hostReset_resets : (s.hostReset).resets = s.resets + 1 := rfl
@[simp] theorem State.hostReset_resetAfter : (s.hostReset).resetAfter = none := rfl
@[simp] theorem State.hostReset_straps : (s.hostReset).straps = s.straps := rfl

/-! ### `State.returning` -/

@[simp] theorem State.returning_block (r : Result) : (s.returning r).block = s.block := rfl
@[simp] theorem State.returning_per (r : Result) : (s.returning r).per = s.per := rfl
@[simp] theorem State.returning_inputs (r : Result) : (s.returning r).inputs = s.inputs := rfl
@[simp] theorem State.returning_result (r : Result) : (s.returning r).result = r := rfl
@[simp] theorem State.returning_returned (r : Result) : (s.returning r).returned = true := rfl
@[simp] theorem State.returning_sink (r : Result) : (s.returning r).sink = s.sink := rfl
@[simp] theorem State.returning_trace (r : Result) : (s.returning r).trace = s.trace := rfl
@[simp] theorem State.returning_host (r : Result) : (s.returning r).host = s.host := rfl
@[simp] theorem State.returning_env (r : Result) : (s.returning r).env = s.env := rfl
@[simp] theorem State.returning_draws (r : Result) : (s.returning r).draws = s.draws := rfl
@[simp] theorem State.returning_resets (r : Result) : (s.returning r).resets = s.resets := rfl
@[simp] theorem State.returning_resetAfter (r : Result) : (s.returning r).resetAfter = none := rfl
@[simp] theorem State.returning_straps (r : Result) : (s.returning r).straps = s.straps := rfl

/-! ### `State.presented` -/

@[simp] theorem State.presented_block (rest : List HostAction) (i : Inputs) (k : Option Nat) : (s.presented rest i k).block = s.block := rfl
@[simp] theorem State.presented_per (rest : List HostAction) (i : Inputs) (k : Option Nat) : (s.presented rest i k).per = s.per := rfl
@[simp] theorem State.presented_inputs (rest : List HostAction) (i : Inputs) (k : Option Nat) : (s.presented rest i k).inputs = i := rfl
@[simp] theorem State.presented_result (rest : List HostAction) (i : Inputs) (k : Option Nat) : (s.presented rest i k).result = s.result := rfl
@[simp] theorem State.presented_returned (rest : List HostAction) (i : Inputs) (k : Option Nat) : (s.presented rest i k).returned = s.returned := rfl
@[simp] theorem State.presented_sink (rest : List HostAction) (i : Inputs) (k : Option Nat) : (s.presented rest i k).sink = s.sink := rfl
@[simp] theorem State.presented_trace (rest : List HostAction) (i : Inputs) (k : Option Nat) : (s.presented rest i k).trace = s.trace := rfl
@[simp] theorem State.presented_host (rest : List HostAction) (i : Inputs) (k : Option Nat) : (s.presented rest i k).host = rest := rfl
@[simp] theorem State.presented_env (rest : List HostAction) (i : Inputs) (k : Option Nat) : (s.presented rest i k).env = s.env := rfl
@[simp] theorem State.presented_draws (rest : List HostAction) (i : Inputs) (k : Option Nat) : (s.presented rest i k).draws = s.draws := rfl
@[simp] theorem State.presented_resets (rest : List HostAction) (i : Inputs) (k : Option Nat) : (s.presented rest i k).resets = s.resets := rfl
@[simp] theorem State.presented_resetAfter (rest : List HostAction) (i : Inputs) (k : Option Nat) : (s.presented rest i k).resetAfter = k := rfl
@[simp] theorem State.presented_straps (rest : List HostAction) (i : Inputs) (k : Option Nat) : (s.presented rest i k).straps = s.straps := rfl

/-! ### `State.hostRest` -/

@[simp] theorem State.hostRest_block (rest : List HostAction) : (s.hostRest rest).block = s.block := rfl
@[simp] theorem State.hostRest_per (rest : List HostAction) : (s.hostRest rest).per = s.per := rfl
@[simp] theorem State.hostRest_inputs (rest : List HostAction) : (s.hostRest rest).inputs = s.inputs := rfl
@[simp] theorem State.hostRest_result (rest : List HostAction) : (s.hostRest rest).result = s.result := rfl
@[simp] theorem State.hostRest_returned (rest : List HostAction) : (s.hostRest rest).returned = s.returned := rfl
@[simp] theorem State.hostRest_sink (rest : List HostAction) : (s.hostRest rest).sink = s.sink := rfl
@[simp] theorem State.hostRest_trace (rest : List HostAction) : (s.hostRest rest).trace = s.trace := rfl
@[simp] theorem State.hostRest_host (rest : List HostAction) : (s.hostRest rest).host = rest := rfl
@[simp] theorem State.hostRest_env (rest : List HostAction) : (s.hostRest rest).env = s.env := rfl
@[simp] theorem State.hostRest_draws (rest : List HostAction) : (s.hostRest rest).draws = s.draws := rfl
@[simp] theorem State.hostRest_resets (rest : List HostAction) : (s.hostRest rest).resets = s.resets := rfl
@[simp] theorem State.hostRest_resetAfter (rest : List HostAction) : (s.hostRest rest).resetAfter = s.resetAfter := rfl
@[simp] theorem State.hostRest_straps (rest : List HostAction) : (s.hostRest rest).straps = s.straps := rfl

/-! ### `State.presenting` -/

@[simp] theorem State.presenting_block (w : Command) : (s.presenting w).block = s.block := rfl
@[simp] theorem State.presenting_per (w : Command) : (s.presenting w).per = s.per := rfl
@[simp] theorem State.presenting_inputs (w : Command) : (s.presenting w).inputs = s.inputs := rfl
@[simp] theorem State.presenting_result (w : Command) : (s.presenting w).result = s.result := rfl
@[simp] theorem State.presenting_returned (w : Command) : (s.presenting w).returned = s.returned := rfl
@[simp] theorem State.presenting_sink (w : Command) : (s.presenting w).sink = s.sink := rfl
@[simp] theorem State.presenting_trace (w : Command) : (s.presenting w).trace = s.trace := rfl
@[simp] theorem State.presenting_host (w : Command) : (s.presenting w).host = .command w s.inputs none :: s.host := rfl
@[simp] theorem State.presenting_env (w : Command) : (s.presenting w).env = s.env := rfl
@[simp] theorem State.presenting_draws (w : Command) : (s.presenting w).draws = s.draws := rfl
@[simp] theorem State.presenting_resets (w : Command) : (s.presenting w).resets = s.resets := rfl
@[simp] theorem State.presenting_resetAfter (w : Command) : (s.presenting w).resetAfter = s.resetAfter := rfl
@[simp] theorem State.presenting_straps (w : Command) : (s.presenting w).straps = s.straps := rfl

/-! ### The environment does not see the result record, the block state or the sink -/

@[simp] theorem State.withResult_move (f : Result → Result) : (s.withResult f).move = s.move := rfl
@[simp] theorem State.withResult_found (f : Result → Result) : (s.withResult f).found = s.found := rfl
@[simp] theorem State.withResult_answer (f : Result → Result) (r : Reg) : (s.withResult f).answer r = s.answer r := rfl
@[simp] theorem State.withResult_left (f : Result → Result) (a : Access) : (s.withResult f).left a = s.left a := rfl
@[simp] theorem State.withResult_inputsAfter (f : Result → Result) : (s.withResult f).inputsAfter = s.inputsAfter := rfl
@[simp] theorem State.withResult_access (f : Result → Result) (a : Access) : (s.withResult f).access a = (s.access a).withResult f := rfl

@[simp] theorem State.withBlock_move (f : Block → Block) : (s.withBlock f).move = s.move := rfl
@[simp] theorem State.withBlock_found (f : Block → Block) : (s.withBlock f).found = s.found := rfl
@[simp] theorem State.withBlock_answer (f : Block → Block) (r : Reg) : (s.withBlock f).answer r = s.answer r := rfl
@[simp] theorem State.withBlock_left (f : Block → Block) (a : Access) : (s.withBlock f).left a = s.left a := rfl
@[simp] theorem State.withBlock_inputsAfter (f : Block → Block) : (s.withBlock f).inputsAfter = s.inputsAfter := rfl
@[simp] theorem State.withBlock_access (f : Block → Block) (a : Access) : (s.withBlock f).access a = (s.access a).withBlock f := rfl

@[simp] theorem State.emitted_move (b : Byte) : (s.emitted b).move = s.move := rfl
@[simp] theorem State.emitted_found (b : Byte) : (s.emitted b).found = s.found := rfl
@[simp] theorem State.emitted_answer (b : Byte) (r : Reg) : (s.emitted b).answer r = s.answer r := rfl
@[simp] theorem State.emitted_left (b : Byte) (a : Access) : (s.emitted b).left a = s.left a := rfl
@[simp] theorem State.emitted_inputsAfter (b : Byte) : (s.emitted b).inputsAfter = s.inputsAfter := rfl
@[simp] theorem State.emitted_access (b : Byte) (a : Access) : (s.emitted b).access a = (s.access a).emitted b := rfl

@[simp] theorem State.begun_move : (s.begun).move = s.move := rfl
@[simp] theorem State.begun_found : (s.begun).found = s.found := rfl
@[simp] theorem State.begun_answer (r : Reg) : (s.begun).answer r = s.answer r := rfl
@[simp] theorem State.begun_left (a : Access) : (s.begun).left a = s.left a := rfl
@[simp] theorem State.begun_inputsAfter : (s.begun).inputsAfter = s.inputsAfter := rfl
@[simp] theorem State.begun_access (a : Access) : (s.begun).access a = (s.access a).begun := rfl

end Sys2Proof.Machine
end

