-- ==== Sys2Proof/Laws/Ops.lean ====
section
/-! SUPPORT. What the shared operations do, said once: the register port, the sequencing of `Op`, beginning and ending a
command, accesses in a row. -/

namespace Sys2Proof.Machine

/-! ### Sequencing -/

theorem Op.bind_ok {α β : Type} {x : Op α} {f : α → Op β} {s t : State} {a : α} (h : x s = .ok a t) :
    (x >>= f) s = f a t := by
  simp only [bind, EStateM.bind, h]

theorem Op.bind_error {α β : Type} {x : Op α} {f : α → Op β} {s t : State} {e : Stop} (h : x s = .error e t) :
    (x >>= f) s = .error e t := by
  simp only [bind, EStateM.bind, h]

@[simp] theorem Op.pure_run {α : Type} (a : α) (s : State) : (pure a : Op α) s = .ok a s := rfl

@[simp] theorem get_run (s : State) : (get : Op State) s = .ok s s := rfl

@[simp] theorem setResult_run (f : Result → Result) (s : State) : setResult f s = .ok () (s.withResult f) := rfl

@[simp] theorem setBlock_run (f : Block → Block) (s : State) : setBlock f s = .ok () (s.withBlock f) := rfl

@[simp] theorem raise_run (f : SeuFault) (s : State) : raise f s = .error (.raised f) s := rfl

/-- The state a part of an operation ends in, whether it stopped or not. -/
def Op.final {α : Type} (x : Op α) (s : State) : State :=
  match x s with
  | .ok _ t => t
  | .error _ t => t

/-- `x` relates the state it starts in to the one it ends in, whether it stopped or not. -/
def Op.Keeps {α : Type} (R : State → State → Prop) (x : Op α) : Prop := ∀ s, R s (x.final s)

section Keeps

variable {α β : Type} {R : State → State → Prop}

theorem Op.Keeps.pure (hr : ∀ s, R s s) (a : α) : Op.Keeps R (Pure.pure a : Op α) := fun s => hr s

theorem Op.Keeps.bind {x : Op α} {f : α → Op β} (ht : ∀ s t u, R s t → R t u → R s u)
    (hx : Op.Keeps R x) (hf : ∀ a, Op.Keeps R (f a)) : Op.Keeps R (x >>= f) := by
  intro s
  have h := hx s
  unfold Op.final at h ⊢
  cases hs : x s with
  | ok a t =>
    rw [Op.bind_ok hs]
    rw [hs] at h
    exact ht s t _ h (hf a t)
  | error e t =>
    rw [Op.bind_error hs]
    rw [hs] at h
    exact h

end Keeps

/-! ### The register port -/

theorem regAt_offset (r : Reg) : regAt (offset r) = some r := by cases r <;> rfl

theorem reached_offset (r : Reg) : reached (offset r) Config.regBytes = some r := by
  simp [reached, regAt_offset]

theorem regRead_eq_portRead (r : Reg) : regRead r = portRead r := by
  simp [regRead, memRead, reached_offset]

theorem regWrite_eq_portWrite (r : Reg) (v : Word) : regWrite r v = portWrite r v := by
  simp [regWrite, memWrite, reached_offset]

/-- A read with no reset due is answered, and has been performed. -/
theorem regRead_run (r : Reg) {s : State} (h : s.resetAfter = none) :
    regRead r s = .ok (s.answer r) (s.access (.read r (s.answer r))) := by
  simp [regRead_eq_portRead, portRead, h]

/-- A write with no reset due has been performed. -/
theorem regWrite_run (r : Reg) (v : Word) {s : State} (h : s.resetAfter = none) :
    regWrite r v s = .ok () (s.access (.write r v)) := by
  simp [regWrite_eq_portWrite, portWrite, h]

/-- Everything a read can do: the reset that is due, or the answered access. -/
theorem regRead_cases (r : Reg) (s : State) :
    (s.resetAfter = some 0 ∧ regRead r s = .error .reset s) ∨
    (s.resetAfter ≠ some 0 ∧ regRead r s = .ok (s.answer r) (s.access (.read r (s.answer r)))) := by
  rw [regRead_eq_portRead]
  unfold portRead
  split <;> simp_all

/-- Everything a write can do: the reset that is due, or the access. -/
theorem regWrite_cases (r : Reg) (v : Word) (s : State) :
    (s.resetAfter = some 0 ∧ regWrite r v s = .error .reset s) ∨
    (s.resetAfter ≠ some 0 ∧ regWrite r v s = .ok () (s.access (.write r v))) := by
  rw [regWrite_eq_portWrite]
  unfold portWrite
  split <;> simp_all

/-- A byte on the sink with no reset due. -/
theorem emitSink_run (b : Byte) {s : State} (h : s.resetAfter = none) : emitSink b s = .ok () (s.emitted b) := by
  simp [emitSink, h]

/-- Everything an emission can do: the reset that is due, or the byte on the sink. -/
theorem emitSink_cases (b : Byte) (s : State) :
    (s.resetAfter = some 0 ∧ emitSink b s = .error .reset s) ∨
    (s.resetAfter ≠ some 0 ∧ emitSink b s = .ok () (s.emitted b)) := by
  unfold emitSink
  split <;> simp_all

/-! ### Accesses in a row -/

@[simp] theorem State.performed_nil (s : State) : s.performed [] = s := rfl

@[simp] theorem State.performed_cons (s : State) (a : Access) (l : List Access) :
    s.performed (a :: l) = (s.access a).performed l := rfl

@[simp] theorem State.performed_append (s : State) (l m : List Access) :
    s.performed (l ++ m) = (s.performed l).performed m := by
  induction l generalizing s with
  | nil => rfl
  | cons a l ih => exact ih (s.access a)

@[simp] theorem State.performed_block (s : State) (l : List Access) : (s.performed l).block = s.block := by
  induction l generalizing s with
  | nil => rfl
  | cons a l ih => exact ih (s.access a)

@[simp] theorem State.performed_result (s : State) (l : List Access) : (s.performed l).result = s.result := by
  induction l generalizing s with
  | nil => rfl
  | cons a l ih => exact ih (s.access a)

@[simp] theorem State.performed_sink (s : State) (l : List Access) : (s.performed l).sink = s.sink := by
  induction l generalizing s with
  | nil => rfl
  | cons a l ih => exact ih (s.access a)

@[simp] theorem State.performed_straps (s : State) (l : List Access) : (s.performed l).straps = s.straps := by
  induction l generalizing s with
  | nil => rfl
  | cons a l ih => exact ih (s.access a)

@[simp] theorem State.performed_host (s : State) (l : List Access) : (s.performed l).host = s.host := by
  induction l generalizing s with
  | nil => rfl
  | cons a l ih => exact ih (s.access a)

@[simp] theorem State.performed_resets (s : State) (l : List Access) : (s.performed l).resets = s.resets := by
  induction l generalizing s with
  | nil => rfl
  | cons a l ih => exact ih (s.access a)

@[simp] theorem State.performed_trace (s : State) (l : List Access) :
    (s.performed l).trace = s.trace ++ l := by
  induction l generalizing s with
  | nil => simp
  | cons a l ih => simp [ih]

theorem State.performed_resetAfter {s : State} (h : s.resetAfter = none) (l : List Access) :
    (s.performed l).resetAfter = none := by
  induction l generalizing s with
  | nil => exact h
  | cons a l ih => exact ih (by simp [h])

@[simp] theorem State.performed_withResult (s : State) (f : Result → Result) (l : List Access) :
    (s.withResult f).performed l = (s.performed l).withResult f := by
  induction l generalizing s with
  | nil => rfl
  | cons a l ih => exact ih (s.access a)

@[simp] theorem State.performed_withBlock (s : State) (f : Block → Block) (l : List Access) :
    (s.withBlock f).performed l = (s.performed l).withBlock f := by
  induction l generalizing s with
  | nil => rfl
  | cons a l ih => exact ih (s.access a)

@[simp] theorem State.performed_begun (s : State) (l : List Access) :
    s.begun.performed l = (s.performed l).begun := by
  induction l generalizing s with
  | nil => rfl
  | cons a l ih => exact ih (s.access a)

/-- Only `tx_data` may differ in the inputs after an access. -/
theorem State.access_inputs_cfg (s : State) (a : Access) :
    { (s.access a).inputs with txData := s.inputs.txData } = s.inputs := by
  simp only [State.access_inputs, State.inputsAfter]
  split <;> rfl

@[simp] theorem State.answered_append (s : State) (l m : List Access) :
    s.answered (l ++ m) ↔ s.answered l ∧ (s.performed l).answered m := by
  induction l generalizing s with
  | nil => simp [State.answered]
  | cons a l ih => cases a <;> simp [State.answered, ih, and_assoc]

@[simp] theorem State.answered_withResult (s : State) (f : Result → Result) (l : List Access) :
    (s.withResult f).answered l ↔ s.answered l := by
  induction l generalizing s with
  | nil => rfl
  | cons a l ih => cases a <;> simp [State.answered, ih]

@[simp] theorem State.answered_begun (s : State) (l : List Access) : s.begun.answered l ↔ s.answered l := by
  induction l generalizing s with
  | nil => rfl
  | cons a l ih => cases a <;> simp [State.answered, ih]

/-! ### Ending a command -/

theorem State.ended_begun_withResult {s : State} (h : s.resetAfter = none) (f : Result → Result) (st : Status)
    (c : BitVec 4) :
    (s.begun.withResult f).ended st c = s.returning { f Result.zero with status := st, code := c } :=
  State.ended_of_none (s := s.begun.withResult f) h st c

/-- A refusal with no reset asserted changes nothing but the result record. -/
theorem State.refusedFor_eq_returning {s : State} (h : s.resetAfter = none) (r : Reason) :
    s.refusedFor r = s.returning (Result.refusal r) :=
  State.ended_of_none (s := s.begun) h .refused r.code

/-- A refusal with a reset asserted is the reset. -/
theorem State.refusedFor_eq_hostReset {s : State} {k : Nat} (h : s.resetAfter = some k) (r : Reason) :
    s.refusedFor r = s.hostReset :=
  State.ended_of_some (s := s.begun) h .refused r.code

/-- Everything the end of a command can be. -/
theorem concluded_cases (x : OpResult Unit) :
    (∃ t, x = .ok () t ∧ concluded x = .next (t.ended .ok 0)) ∨
    (∃ f t, x = .error (.raised f) t ∧ concluded x = .next (t.ended .fault f.code)) ∨
    (∃ t, x = .error .reset t ∧ concluded x = .next t.hostReset) ∨
    (∃ a t, x = .error (.unreachable a) t ∧ concluded x = .fault (.unreachableAddress a)) := by
  cases x with
  | ok u t => exact .inl ⟨t, rfl, rfl⟩
  | error e t =>
    cases e with
    | raised f => exact .inr (.inl ⟨f, t, rfl, rfl⟩)
    | reset => exact .inr (.inr (.inl ⟨t, rfl, rfl⟩))
    | unreachable a => exact .inr (.inr (.inr ⟨a, t, rfl, rfl⟩))

/-- Everything a gated operation can do. -/
theorem gated_cases (i : Instr) (op : Op Unit) (s : State) :
    (∃ r, gate i s = some r ∧ gated i op s = .next (s.refusedFor r)) ∨
    (gate i s = none ∧ gated i op s = concluded (op s.begun)) := by
  unfold gated
  cases h : gate i s with
  | some r => exact .inl ⟨r, rfl, rfl⟩
  | none => exact .inr ⟨rfl, rfl⟩

/-- Everything an operation gated on its BusMode can do. -/
theorem gatedMode_cases (i : Instr) (op : BusMode → Op Unit) (s : State) :
    (∃ r, gatedMode i op s = .next (s.refusedFor r)) ∨
    (∃ m, gate i s = none ∧ busMode s.inputs = some m ∧ gatedMode i op s = concluded (op m s.begun)) := by
  unfold gatedMode
  cases h : gate i s with
  | some r => exact .inl ⟨r, rfl⟩
  | none =>
    cases hm : busMode s.inputs with
    | none => exact .inl ⟨.illegalMode, rfl⟩
    | some m => exact .inr ⟨m, rfl, rfl, rfl⟩

end Sys2Proof.Machine
end

