-- ==== Sys2Proof/Laws/Runs.lean ====
section
/-! SUPPORT. What each part of an operation does when no reset is due: its accesses, how they are answered, and what it
puts into the result record. Said once per part; the claims about commands cite these. -/

namespace Sys2Proof.Machine

/-- ERRCLR's part: the accesses of rule R126 and `errs`. -/
theorem errclrOp_run {s : State} (h : s.resetAfter = none) :
    s.answered (errclrAccesses (s.answer .SR1)) ∧
    errclrOp s = .ok () ((s.performed (errclrAccesses (s.answer .SR1))).withResult
      (fun r => { r with errs := errBits (s.answer .SR1) })) := by
  unfold errclrOp
  rw [Op.bind_ok (regRead_run .SR1 h)]
  by_cases he : errBits (s.answer .SR1) = 0#7
  · simp [errclrAccesses, he, State.answered]
  · have hw := regWrite_run .SR1 (s.answer .SR1 &&& ~~~errMask)
      (s := s.access (.read .SR1 (s.answer .SR1))) (by simp [h])
    simp [errclrAccesses, he, State.answered, Op.bind_ok hw]

/-- DECODE's part: the two reads of rule R136, the event, and its code in the result. -/
theorem decodeOp_run {s : State} (h : s.resetAfter = none) :
    ∃ v w, s.answered [.read .SR1 v, .read .SR2 w] ∧
      decodeOp s = .ok (classify (snapshot v w)) ((s.performed [.read .SR1 v, .read .SR2 w]).withResult
        (fun r => { r with event := (classify (snapshot v w)).code })) := by
  refine ⟨s.answer .SR1, (s.access (.read .SR1 (s.answer .SR1))).answer .SR2, ?_, ?_⟩
  · simp [State.answered]
  · unfold decodeOp
    rw [Op.bind_ok (regRead_run .SR1 h), Op.bind_ok (regRead_run .SR2 (by simp [h]))]
    rfl

/-- SEND's part: the one write of rule R151. -/
theorem sendOp_run (b : Byte) {s : State} (h : s.resetAfter = none) :
    sendOp b s = .ok () ((s.performed [.write .DR (drValue b)]).withResult (fun r => { r with txReq := true })) := by
  unfold sendOp
  rw [Op.bind_ok (regWrite_run .DR (drValue b) h)]
  rfl

/-- RECV's part: the one read of rule R152. -/
theorem recvOp_run {s : State} (h : s.resetAfter = none) :
    recvOp s = .ok (drByte (s.answer .DR)) ((s.performed [.read .DR (s.answer .DR)]).withResult
      (fun r => { r with rxByte := drByte (s.answer .DR), rxValid := true })) := by
  unfold recvOp
  rw [Op.bind_ok (regRead_run .DR h)]
  rfl

/-- ADDRACK's part: the accesses of rule R159. -/
theorem addrackOp_run {s : State} (h : s.resetAfter = none) :
    ∃ v w, s.answered (addrackAccesses v w) ∧ addrackOp s = .ok () (s.performed (addrackAccesses v w)) := by
  refine ⟨s.answer .SR1, (s.access (.read .SR1 (s.answer .SR1))).answer .SR2, ?_⟩
  unfold addrackOp
  rw [Op.bind_ok (regRead_run .SR1 h)]
  cases ha : sr1ADDR (s.answer .SR1) with
  | false => simp [addrackAccesses, ha, State.answered]
  | true =>
    have hr := regRead_run .SR2 (s := s.access (.read .SR1 (s.answer .SR1))) (by simp [h])
    simp [addrackAccesses, ha, State.answered, Op.bind_ok hr]

/-- How STOPACK's loop ends: done, or with the fault, `n` writes of CR having been made. -/
def stopackEnd (n : Nat) (last : Word) (t : State) : OpResult Unit :=
  if sr1STOPF last then
    .error (.raised .stopClearNonConvergence) (t.withResult (fun r => { r with iters := BitVec.ofNat 4 n }))
  else .ok () (t.withResult (fun r => { r with iters := BitVec.ofNat 4 n }))

/-- STOPACK's loop with `left` writes allowed, after `n`: some rounds that each found `STOPF` set, then the last
read (rule R161). -/
theorem stopackLoop_run (left n : Nat) {s : State} (h : s.resetAfter = none) :
    ∃ rounds last, (∀ p ∈ rounds, sr1STOPF p.1 = true) ∧ rounds.length ≤ left ∧
      (rounds.length < left → sr1STOPF last = false) ∧
      s.answered (stopackAccesses rounds last) ∧
      stopackLoop left n s =
        stopackEnd (n + rounds.length) last (s.performed (stopackAccesses rounds last)) := by
  induction left generalizing n s with
  | zero =>
    refine ⟨[], s.answer .SR1, by simp, by simp, by simp, ?_, ?_⟩
    · simp [stopackAccesses, State.answered]
    · unfold stopackLoop
      rw [Op.bind_ok (regRead_run .SR1 h), Op.bind_ok (setResult_run _ _)]
      cases hs : sr1STOPF (s.answer .SR1) <;> simp [stopackEnd, stopackAccesses, hs]
  | succ left ih =>
    unfold stopackLoop
    rw [Op.bind_ok (regRead_run .SR1 h)]
    cases hs : sr1STOPF (s.answer .SR1) with
    | false =>
      refine ⟨[], s.answer .SR1, by simp, by simp, by simp [hs], ?_, ?_⟩
      · simp [stopackAccesses, State.answered]
      · simp [stopackEnd, stopackAccesses, hs]
    | true =>
      let s1 := s.access (.read .SR1 (s.answer .SR1))
      let s2 := s1.access (.read .CR (s1.answer .CR))
      have h1 : s1.resetAfter = none := by simp [s1, h]
      have h2 : s2.resetAfter = none := by simp [s2, h1]
      obtain ⟨rounds, last, hall, hlen, hend, hans, hrun⟩ :=
        ih (n + 1) (s := s2.access (.write .CR (s1.answer .CR ||| ackMask))) (by simp [h2])
      refine ⟨(s.answer .SR1, s1.answer .CR) :: rounds, last, ?_, by simpa using hlen,
        by simpa using hend, ?_, ?_⟩
      · simpa [hs] using hall
      · simpa [stopackAccesses, stopRound, State.answered, s1, s2] using hans
      · simp only [if_true]
        rw [Op.bind_ok (regRead_run .CR h1), Op.bind_ok (regWrite_run .CR _ h2), hrun]
        simp only [stopackAccesses, stopRound, List.flatMap_cons, List.cons_append, List.nil_append,
          State.performed_cons, List.length_cons, s1, s2]
        congr 1
        omega

/-- STOPACK's loop is what the answers of the port make it: rounds that each found `STOPF` set, then the read that ends
it, are all it does (rules R161, R163). -/
theorem stopackLoop_of_answered (left n : Nat) {s : State} (h : s.resetAfter = none) (rounds : List (Word × Word))
    (last : Word) (hall : ∀ p ∈ rounds, sr1STOPF p.1 = true) (hlen : rounds.length ≤ left)
    (hend : rounds.length < left → sr1STOPF last = false) (hans : s.answered (stopackAccesses rounds last)) :
    stopackLoop left n s =
      stopackEnd (n + rounds.length) last (s.performed (stopackAccesses rounds last)) := by
  induction rounds generalizing left n s with
  | nil =>
    obtain ⟨rfl, -⟩ := hans
    cases left with
    | zero =>
      unfold stopackLoop
      rw [Op.bind_ok (regRead_run .SR1 h), Op.bind_ok (setResult_run _ _)]
      cases hs : sr1STOPF (s.answer .SR1) <;> simp [stopackEnd, stopackAccesses, hs]
    | succ left =>
      have hs := hend (by simp)
      unfold stopackLoop
      rw [Op.bind_ok (regRead_run .SR1 h)]
      simp [stopackEnd, stopackAccesses, hs]
  | cons p rounds ih =>
    obtain ⟨v, c⟩ := p
    cases left with
    | zero => simp at hlen
    | succ left =>
      have hv : sr1STOPF v = true := hall (v, c) (by simp)
      obtain ⟨ha, hc, hrest⟩ : s.answer .SR1 = v ∧ (s.access (.read .SR1 v)).answer .CR = c ∧
          (((s.access (.read .SR1 v)).access (.read .CR c)).access (.write .CR (c ||| ackMask))).answered
            (stopackAccesses rounds last) := by
        obtain ⟨h1, h2, h3⟩ := hans
        exact ⟨h1.symm, h2.symm, h3⟩
      have h1 : (s.access (.read .SR1 v)).resetAfter = none := by simp [h]
      have h2 : ((s.access (.read .SR1 v)).access (.read .CR c)).resetAfter = none := by simp [h]
      have hr1 := regRead_run .SR1 h
      rw [ha] at hr1
      have hr2 := regRead_run .CR h1
      rw [hc] at hr2
      unfold stopackLoop
      rw [Op.bind_ok hr1]
      simp only [hv, if_true]
      rw [Op.bind_ok hr2, Op.bind_ok (regWrite_run .CR _ h2),
        ih left (n + 1) (by simp [h]) (fun q hq => hall q (List.mem_cons_of_mem _ hq)) (by simpa using hlen)
          (fun hl => hend (by simpa using hl)) hrest,
        List.length_cons, show n + 1 + rounds.length = n + (rounds.length + 1) by omega]
      rfl

/-- STOPCLR's part: ADDRACK's accesses, then STOPACK's (rule R165). -/
theorem stopclrOp_run {s : State} (h : s.resetAfter = none) :
    ∃ v w rounds last, StopackRun rounds last ∧
      s.answered (addrackAccesses v w ++ stopackAccesses rounds last) ∧
      stopclrOp s = stopackEnd rounds.length last
        (s.performed (addrackAccesses v w ++ stopackAccesses rounds last)) := by
  obtain ⟨v, w, ha, hr⟩ := addrackOp_run h
  obtain ⟨rounds, last, hall, hlen, hend, hans, hrun⟩ :=
    stopackLoop_run Config.stopClearMaxIter 0 (State.performed_resetAfter h (addrackAccesses v w))
  refine ⟨v, w, rounds, last, ⟨hall, hlen, hend⟩, ?_, ?_⟩
  · exact (State.answered_append _ _ _).2 ⟨ha, hans⟩
  · unfold stopclrOp stopackOp
    rw [Op.bind_ok hr, hrun]
    simp

/-- TAPPLY's part: its eight accesses, reads of CR answered `c1`, `c2`, `c3` (rule R108). -/
def tapplyAccesses (trise : BitVec 6) (div : BitVec 12) (fs duty : Bool) (c1 c2 c3 : Word) : List Access :=
  [ .read .CR c1, .write .CR (c1 &&& ~~~peMask &&& ~~~ackMask), .write .TRISE (triseValue trise),
    .write .CCR (ccrValue div fs duty), .read .CR c2, .write .CR ((c2 &&& ~~~ackMask) ||| peMask),
    .read .CR c3, .write .CR (c3 ||| ackMask ||| engcMask) ]

/-- TAPPLY runs its eight accesses (rule R108). -/
theorem tapplyOp_run (trise : BitVec 6) (div : BitVec 12) (fs duty : Bool) {s : State}
    (h : s.resetAfter = none) :
    ∃ c1 c2 c3, s.answered (tapplyAccesses trise div fs duty c1 c2 c3) ∧
      tapplyOp trise div fs duty s = .ok () (s.performed (tapplyAccesses trise div fs duty c1 c2 c3)) := by
  let c1 := s.answer .CR
  let s1 := ((((s.access (.read .CR c1)).access (.write .CR (c1 &&& ~~~peMask &&& ~~~ackMask))).access
    (.write .TRISE (triseValue trise))).access (.write .CCR (ccrValue div fs duty)))
  let c2 := s1.answer .CR
  let s2 := ((s1.access (.read .CR c2)).access (.write .CR ((c2 &&& ~~~ackMask) ||| peMask)))
  let c3 := s2.answer .CR
  have h1 : s1.resetAfter = none := by simp [s1, h]
  have h2 : s2.resetAfter = none := by simp [s2, h1]
  refine ⟨c1, c2, c3, ?_, ?_⟩
  · simp [tapplyAccesses, State.answered, c1, c2, c3, s1, s2]
  · unfold tapplyOp
    rw [Op.bind_ok (regRead_run .CR h), Op.bind_ok (regWrite_run .CR _ (by simp [h])),
      Op.bind_ok (regWrite_run .TRISE _ (by simp [h])), Op.bind_ok (regWrite_run .CCR _ (by simp [h])),
      Op.bind_ok (regRead_run .CR h1), Op.bind_ok (regWrite_run .CR _ (by simp [h1])),
      Op.bind_ok (regRead_run .CR h2), regWrite_run .CR _ (by simp [h2])]
    rfl

end Sys2Proof.Machine
end

