-- ==== Sys2Proof/Laws/Timing.lean ====
section
/-! SUPPORT. What TCALC and INIT do, said once per path (rules R101, R113 to R115). -/

namespace Sys2Proof.Machine

/-! ### The checks -/

theorem freqFault_high {f : Nat} (h : 400000 < f) : freqFault f = some .freqTooHigh := by
  simp [freqFault, Config.freqMaxHz, h]

theorem freqFault_zero : freqFault 0 = some .freqZero := by
  simp [freqFault, Config.freqMaxHz]

theorem freqFault_none {f : Nat} (h1 : 1 ≤ f) (h2 : f ≤ 400000) : freqFault f = none := by
  have h0 : f ≠ 0 := by omega
  simp [freqFault, Config.freqMaxHz, h0, h2]

/-- A frequency fault is one of the two configuration faults of rule R114. -/
theorem freqFault_some {n : Nat} {f : SeuFault} (h : freqFault n = some f) : f = .freqTooHigh ∨ f = .freqZero := by
  unfold freqFault at h
  split at h
  · exact .inl (Option.some.inj h).symm
  · split at h
    · exact .inr (Option.some.inj h).symm
    · cases h

theorem fits_true {t : TimingValues} (h1 : t.triseN < 64) (h2 : t.divN < 4096) : t.fits = true := by
  simp only [TimingValues.fits, decide_eq_true_eq]
  exact ⟨h1, h2⟩

theorem fits_false {t : TimingValues} (h : 64 ≤ t.triseN ∨ 4096 ≤ t.divN) : t.fits = false := by
  simp only [TimingValues.fits, decide_eq_false_iff_not]
  rintro ⟨h1, h2⟩
  have h1' : t.triseN < 64 := h1
  have h2' : t.divN < 4096 := h2
  omega

theorem fits_iff {t : TimingValues} : t.fits = true ↔ t.triseN < 64 ∧ t.divN < 4096 := by
  simp only [TimingValues.fits, decide_eq_true_eq]
  exact Iff.rfl

/-! ### The calculator's result -/

/-- The calculator's four result fields on top of a result record (rule R76). -/
def TimingValues.report (t : TimingValues) (r : Result) : Result :=
  { r with
    triseN := BitVec.ofNat 32 t.triseN
    divN := BitVec.ofNat 32 t.divN
    fs := t.fs
    duty := t.duty }

theorem reportTiming_run (t : TimingValues) (s : State) : reportTiming t s = .ok () (s.withResult t.report) := rfl

/-- TCALC's part on each path (rule R101). -/
theorem tcalcOp_run (m : BusMode) (s : State) :
    tcalcOp m s = match freqFault s.inputs.cfgFreqHz.toNat with
      | some f => .error (.raised f) s
      | none => .ok () (s.withResult (timingCalc s.inputs.cfgClockHz.toNat m).report) := by
  unfold tcalcOp
  rw [Op.bind_ok (get_run s)]
  cases freqFault s.inputs.cfgFreqHz.toNat <;> rfl

/-! ### INIT -/

/-- A fatal error's part (rules R114, R187). -/
theorem fatal_run (f : SeuFault) (s : State) :
    fatal f s = .error (.raised f) (s.withBlock (fun b => { b with phase := .failed })) := rfl

/-- INIT's part on each path (rules R113 to R115). -/
theorem initOp_run (m : BusMode) (s : State) :
    initOp m s = match freqFault s.inputs.cfgFreqHz.toNat with
      | some f => .error (.raised f) (s.withBlock (fun b => { b with phase := .failed }))
      | none =>
        match (timingCalc s.inputs.cfgClockHz.toNat m).fits with
        | true => configureOp (timingCalc s.inputs.cfgClockHz.toNat m) s.inputs s.straps.cyclesPerUs
            (s.withResult (timingCalc s.inputs.cfgClockHz.toNat m).report)
        | false => .error (.raised .fieldOverflow)
            ((s.withResult (timingCalc s.inputs.cfgClockHz.toNat m).report).withBlock
              (fun b => { b with phase := .failed })) := by
  unfold initOp
  rw [Op.bind_ok (get_run s)]
  cases freqFault s.inputs.cfgFreqHz.toNat with
  | some f => rfl
  | none =>
    simp only [Op.bind_ok (reportTiming_run _ s)]
    cases (timingCalc s.inputs.cfgClockHz.toNat m).fits <;> rfl

/-- The block state a successful INIT leaves (rules R113, R116). -/
def configuredBlock (t : TimingValues) (i : Inputs) (cyclesPerUs : BitVec 32) : Block where
  phase := .ready
  triseVal := BitVec.ofNat 6 t.triseN
  divVal := BitVec.ofNat 12 t.divN
  fs := t.fs
  duty := t.duty
  ownAddr := ownAddress i.cfgOwnAddr
  tStart := scaledTimeout i.cfgTStartUs cyclesPerUs
  nStartRetry := i.cfgNStartRetry
  tAddr := scaledTimeout i.cfgTAddrUs cyclesPerUs
  tData := scaledTimeout i.cfgTDataUs cyclesPerUs

theorem initAccesses_eq (trise : BitVec 6) (div : BitVec 12) (fs duty : Bool) (addr : BitVec 7) (c1 c2 c3 : Word) :
    initAccesses trise div fs duty addr c1 c2 c3 =
      tapplyAccesses trise div fs duty c1 c2 c3 ++ [.write .OAR (oarValue (ownAddress addr))] := by
  simp only [tapplyAccesses, ccrValue_eq, triseValue_eq, oarValue_ownAddress]
  rfl

/-- INIT's part after all checks: the nine accesses and the whole block state (rules R108, R113, R121). -/
theorem configureOp_run (t : TimingValues) (i : Inputs) (c : BitVec 32) {s : State} (h : s.resetAfter = none) :
    ∃ c1 c2 c3,
      s.answered (initAccesses (BitVec.ofNat 6 t.triseN) (BitVec.ofNat 12 t.divN) t.fs t.duty i.cfgOwnAddr c1 c2 c3) ∧
      configureOp t i c s = .ok ()
        ((s.performed (initAccesses (BitVec.ofNat 6 t.triseN) (BitVec.ofNat 12 t.divN) t.fs t.duty i.cfgOwnAddr
          c1 c2 c3)).withBlock (fun _ => configuredBlock t i c)) := by
  let stored : Block → Block := fun b =>
    { b with
      triseVal := BitVec.ofNat Config.triseBits t.triseN, divVal := BitVec.ofNat Config.divBits t.divN
      fs := t.fs, duty := t.duty }
  obtain ⟨c1, c2, c3, ha, hr⟩ :=
    tapplyOp_run (BitVec.ofNat 6 t.triseN) (BitVec.ofNat 12 t.divN) t.fs t.duty (s := s.withBlock stored) h
  refine ⟨c1, c2, c3, ?_, ?_⟩
  · rw [initAccesses_eq, State.answered_append]
    exact ⟨by simpa [State.answered, tapplyAccesses] using ha, by simp [State.answered]⟩
  · unfold configureOp setaddrOp
    rw [Op.bind_ok (setBlock_run _ s)]
    simp only [initAccesses_eq, State.performed_append]
    rw [Op.bind_ok hr, Op.bind_ok (setBlock_run _ _),
      Op.bind_ok (regWrite_run _ _ (by simp [State.performed_resetAfter h]))]
    simp only [setBlock_run, State.performed_withBlock, State.withBlock_access, State.performed_cons,
      State.performed_nil]
    rfl

end Sys2Proof.Machine
end

