-- ==== Sys2Proof/Laws/Accesses.lean ====
section
/-! SUPPORT. How many port accesses each part of an operation can make, and which, from every state and however the
environment moves, a reset in its middle included; that no part reaches an address outside the seven registers; and
the two ways a command can go, refused or run. -/

namespace Sys2Proof.Machine

/-! ### `Op.Makes` -/

/-- However `x` ends, it has made at most `n` accesses, each of them with `P`. -/
def Op.Makes {α : Type} (n : Nat) (P : Access → Prop) (x : Op α) : Prop :=
  ∀ s, ∃ l, (x.final s).trace = s.trace ++ l ∧ l.length ≤ n ∧ ∀ a ∈ l, P a

section Makes

variable {α β : Type} {n m k : Nat} {P Q : Access → Prop}

theorem Op.Makes.bind {x : Op α} {f : α → Op β} (hx : Op.Makes n P x) (hf : ∀ a, Op.Makes m P (f a))
    (hk : n + m ≤ k) : Op.Makes k P (x >>= f) := by
  intro s
  obtain ⟨l, h1, h2, h3⟩ := hx s
  unfold Op.final at h1 ⊢
  cases hs : x s with
  | ok a t =>
    rw [Op.bind_ok hs]
    rw [hs] at h1
    obtain ⟨l', g1, g2, g3⟩ := hf a t
    unfold Op.final at g1
    refine ⟨l ++ l', ?_, by simp only [List.length_append]; omega, ?_⟩
    · rw [g1]
      simp only at h1
      rw [h1, List.append_assoc]
    · intro a ha
      rcases List.mem_append.1 ha with h | h
      · exact h3 a h
      · exact g3 a h
  | error e t =>
    rw [Op.bind_error hs]
    rw [hs] at h1
    exact ⟨l, h1, by omega, h3⟩

theorem Op.Makes.none {x : Op α} (h : ∀ s, (x.final s).trace = s.trace) : Op.Makes n P x :=
  fun s => ⟨[], by simp [h s], Nat.zero_le _, by simp⟩

theorem Op.Makes.mono {x : Op α} (h : Op.Makes n P x) (hk : n ≤ m) : Op.Makes m P x := fun s =>
  let ⟨l, a, b, c⟩ := h s
  ⟨l, a, b.trans hk, c⟩

theorem Op.Makes.imp {x : Op α} (h : Op.Makes n P x) (hk : ∀ a, P a → Q a) : Op.Makes n Q x := fun s =>
  let ⟨l, a, b, c⟩ := h s
  ⟨l, a, b, fun x hx => hk x (c x hx)⟩

theorem Op.Makes.discard {x : Op α} (h : Op.Makes n P x) : Op.Makes n P (do let _ ← x) :=
  Op.Makes.bind (m := 0) h (fun _ => Op.Makes.none fun _ => rfl) (by omega)

theorem Op.Makes.read (r : Reg) (h : ∀ v, P (.read r v)) : Op.Makes 1 P (regRead r) := by
  intro s
  rcases regRead_cases r s with ⟨_, h1⟩ | ⟨_, h1⟩ <;> unfold Op.final <;> rw [h1]
  · exact ⟨[], by simp, by simp, by simp⟩
  · exact ⟨[.read r (s.answer r)], by simp, by simp, by simp [h]⟩

theorem Op.Makes.write (r : Reg) (v : Word) (h : P (.write r v)) : Op.Makes 1 P (regWrite r v) := by
  intro s
  rcases regWrite_cases r v s with ⟨_, h1⟩ | ⟨_, h1⟩ <;> unfold Op.final <;> rw [h1]
  · exact ⟨[], by simp, by simp, by simp⟩
  · exact ⟨[.write r v], by simp, by simp, by simp [h]⟩

theorem Op.Makes.emitSink (b : Byte) : Op.Makes n P (Machine.emitSink b) := by
  refine Op.Makes.none fun s => ?_
  rcases emitSink_cases b s with ⟨_, h⟩ | ⟨_, h⟩ <;> simp only [Op.final, h, State.emitted_trace]

theorem Op.Makes.setResult (f : Result → Result) : Op.Makes n P (Machine.setResult f) := Op.Makes.none fun _ => rfl

theorem Op.Makes.setBlock (f : Block → Block) : Op.Makes n P (Machine.setBlock f) := Op.Makes.none fun _ => rfl

end Makes

/-! ### The accesses of each part -/

/-- ERRCLR's accesses (rule R126). -/
def ErrclrAccess (a : Access) : Prop := a.Allowed ∧ ((∃ v, a = .read .SR1 v) ∨ ∃ v, a = .write .SR1 v)

/-- DECODE's and ADDRACK's accesses (rules R136, R159). -/
def StatusRead (a : Access) : Prop := a.Allowed ∧ ((∃ v, a = .read .SR1 v) ∨ ∃ v, a = .read .SR2 v)

/-- STOPACK's accesses (rule R161). -/
def StopackAccess (a : Access) : Prop :=
  a.Allowed ∧ ((∃ v, a = .read .SR1 v) ∨ (∃ v, a = .read .CR v) ∨ ∃ v, a = .write .CR v)

/-- STOPCLR's accesses (rule R165). -/
def StopclrAccess (a : Access) : Prop := StatusRead a ∨ StopackAccess a

/-- SEND's access (rule R151). -/
def SendAccess (a : Access) : Prop := a.Allowed ∧ ∃ v, a = .write .DR v

/-- RECV's access (rule R152). -/
def RecvAccess (a : Access) : Prop := a.Allowed ∧ ∃ v, a = .read .DR v

/-- POLL's accesses (rule R171). -/
def PollAccess (a : Access) : Prop := ErrclrAccess a ∨ StopclrAccess a ∨ SendAccess a ∨ RecvAccess a

/-- INIT's accesses (rules R108, R121). -/
def InitAccess (a : Access) : Prop :=
  a.Allowed ∧ ((∃ v, a = .read .CR v) ∨ (∃ v, a = .write .CR v) ∨ (∃ v, a = .write .TRISE v) ∨
    (∃ v, a = .write .CCR v) ∨ ∃ v, a = .write .OAR v)

theorem errclrOp_makes : Op.Makes 2 ErrclrAccess errclrOp := by
  unfold errclrOp
  refine Op.Makes.bind (n := 1) (m := 1) (Op.Makes.read _ (by simp [ErrclrAccess, Access.Allowed])) (fun v => ?_)
    (by omega)
  dsimp only
  split
  · refine Op.Makes.bind (n := 1) (m := 0) (Op.Makes.write _ _ ⟨?_, by simp⟩) (fun _ => Op.Makes.setResult _)
      (by omega)
    simp only [Access.Allowed]
    rw [BitVec.and_assoc, show ~~~errMask &&& 0xDF00 = 0#16 by decide]
    exact BitVec.and_zero
  · exact Op.Makes.setResult _

theorem decodeOp_makes : Op.Makes 2 StatusRead decodeOp := by
  unfold decodeOp
  refine Op.Makes.bind (n := 1) (m := 1) (Op.Makes.read _ (by simp [StatusRead, Access.Allowed])) (fun _ => ?_)
    (by omega)
  refine Op.Makes.bind (n := 1) (m := 0) (Op.Makes.read _ (by simp [StatusRead, Access.Allowed])) (fun _ => ?_)
    (by omega)
  exact Op.Makes.bind (n := 0) (m := 0) (Op.Makes.setResult _) (fun _ => Op.Makes.none fun _ => rfl) (by omega)

theorem sendOp_makes (b : Byte) : Op.Makes 1 SendAccess (sendOp b) := by
  unfold sendOp
  refine Op.Makes.bind (n := 1) (m := 0) (Op.Makes.write _ _ ⟨?_, by simp⟩) (fun _ => Op.Makes.setResult _) (by omega)
  simp only [Access.Allowed]
  revert b
  decide

theorem recvOp_makes : Op.Makes 1 RecvAccess recvOp := by
  unfold recvOp
  refine Op.Makes.bind (n := 1) (m := 0) (Op.Makes.read _ (by simp [RecvAccess, Access.Allowed])) (fun _ => ?_)
    (by omega)
  exact Op.Makes.bind (n := 0) (m := 0) (Op.Makes.setResult _) (fun _ => Op.Makes.none fun _ => rfl) (by omega)

theorem addrackOp_makes : Op.Makes 2 StatusRead addrackOp := by
  unfold addrackOp
  refine Op.Makes.bind (n := 1) (m := 1) (Op.Makes.read _ (by simp [StatusRead, Access.Allowed])) (fun _ => ?_)
    (by omega)
  split
  · exact (Op.Makes.read _ (by simp [StatusRead, Access.Allowed])).discard
  · exact Op.Makes.none fun _ => rfl

theorem stopackLoop_makes (left n : Nat) : Op.Makes (3 * left + 1) StopackAccess (stopackLoop left n) := by
  induction left generalizing n with
  | zero =>
    unfold stopackLoop
    refine Op.Makes.bind (n := 1) (m := 0) (Op.Makes.read _ (by simp [StopackAccess, Access.Allowed]))
      (fun _ => ?_) (by omega)
    refine Op.Makes.bind (n := 0) (m := 0) (Op.Makes.setResult _) (fun _ => ?_) (by omega)
    split <;> exact Op.Makes.none fun _ => rfl
  | succ left ih =>
    unfold stopackLoop
    refine Op.Makes.bind (n := 1) (m := 3 * left + 3) (Op.Makes.read _ (by simp [StopackAccess, Access.Allowed]))
      (fun _ => ?_) (by omega)
    split
    · refine Op.Makes.bind (n := 1) (m := 3 * left + 2) (Op.Makes.read _ (by simp [StopackAccess, Access.Allowed]))
        (fun _ => ?_) (by omega)
      exact Op.Makes.bind (n := 1) (m := 3 * left + 1)
        (Op.Makes.write _ _ (by simp [StopackAccess, Access.Allowed])) (fun _ => ih _) (by omega)
    · exact Op.Makes.setResult _

theorem stopackOp_makes : Op.Makes 25 StopackAccess stopackOp := stopackLoop_makes 8 0

theorem stopclrOp_makes : Op.Makes 27 StopclrAccess stopclrOp :=
  Op.Makes.bind (n := 2) (m := 25) (addrackOp_makes.imp fun _ => Or.inl) (fun _ => stopackOp_makes.imp fun _ => Or.inr)
    (by omega)

theorem respondOp_makes (first : Bool) : Op.Makes 1 SendAccess (respondOp first) := by
  unfold respondOp
  refine Op.Makes.bind (n := 0) (m := 1) (Op.Makes.none fun _ => rfl) (fun _ => ?_) (by omega)
  exact Op.Makes.bind (n := 0) (m := 1) (Op.Makes.setResult _) (fun _ => sendOp_makes _) (by omega)

theorem dispatchOp_makes (ev : Event) : Op.Makes 27 PollAccess (dispatchOp ev) := by
  have hs : ∀ f, Op.Makes 27 PollAccess (respondOp f) := fun f =>
    ((respondOp_makes f).imp fun _ h => .inr (.inr (.inl h))).mono (by omega)
  cases ev with
  | absence => exact Op.Makes.none fun _ => rfl
  | receiverAddressMatched => exact Op.Makes.none fun _ => rfl
  | byteReceived =>
    exact Op.Makes.bind (n := 1) (m := 0) (recvOp_makes.imp fun _ h => .inr (.inr (.inr h)))
      (fun _ => Op.Makes.emitSink _) (by omega)
  | transmitterAddressMatched => exact hs true
  | byteTransmitted => exact hs false
  | byteTransmitting => exact hs false
  | stopDetected => exact stopclrOp_makes.imp fun _ h => .inr (.inl h)

theorem pollOp_makes : Op.Makes 31 PollAccess pollOp :=
  Op.Makes.bind (n := 2) (m := 29) (errclrOp_makes.imp fun _ => Or.inl)
    (fun _ => Op.Makes.bind (n := 2) (m := 27) (decodeOp_makes.imp fun _ h => .inr (.inl (.inl h)))
      (fun _ => dispatchOp_makes _) (by omega)) (by omega)

theorem tapplyOp_makes (trise : BitVec 6) (div : BitVec 12) (fs duty : Bool) :
    Op.Makes 8 InitAccess (tapplyOp trise div fs duty) := by
  have hr : Op.Makes 1 InitAccess (regRead .CR) := Op.Makes.read _ (by simp [InitAccess, Access.Allowed])
  have hw : ∀ v, Op.Makes 1 InitAccess (regWrite .CR v) := fun v =>
    Op.Makes.write _ _ (by simp [InitAccess, Access.Allowed])
  unfold tapplyOp
  refine Op.Makes.bind (n := 1) (m := 7) hr (fun _ => ?_) (by omega)
  refine Op.Makes.bind (n := 1) (m := 6) (hw _) (fun _ => ?_) (by omega)
  refine Op.Makes.bind (n := 1) (m := 5) (Op.Makes.write _ _ ⟨?_, by simp⟩) (fun _ => ?_) (by omega)
  · simp only [Access.Allowed]
    revert trise
    decide
  refine Op.Makes.bind (n := 1) (m := 4) (Op.Makes.write _ _ ⟨ccrValue_reserved div fs duty, by simp⟩)
    (fun _ => ?_) (by omega)
  refine Op.Makes.bind (n := 1) (m := 3) hr (fun _ => ?_) (by omega)
  refine Op.Makes.bind (n := 1) (m := 2) (hw _) (fun _ => ?_) (by omega)
  exact Op.Makes.bind (n := 1) (m := 1) hr (fun _ => hw _) (by omega)

theorem configureOp_makes (t : TimingValues) (i : Inputs) (c : BitVec 32) :
    Op.Makes 9 InitAccess (configureOp t i c) := by
  unfold configureOp
  refine Op.Makes.bind (n := 0) (m := 9) (Op.Makes.setBlock _) (fun _ => ?_) (by omega)
  refine Op.Makes.bind (n := 8) (m := 1) (tapplyOp_makes _ _ _ _) (fun _ => ?_) (by omega)
  refine Op.Makes.bind (n := 0) (m := 1) (Op.Makes.setBlock _) (fun _ => ?_) (by omega)
  refine Op.Makes.bind (n := 1) (m := 0) (Op.Makes.write _ _ ⟨?_, by simp⟩) (fun _ => Op.Makes.setBlock _) (by omega)
  simp only [Access.Allowed]
  generalize i.cfgOwnAddr = x
  revert x
  decide

theorem initOp_makes (m : BusMode) : Op.Makes 9 InitAccess (initOp m) := by
  unfold initOp
  refine Op.Makes.bind (n := 0) (m := 9) (Op.Makes.none fun _ => rfl) (fun _ => ?_) (by omega)
  split
  · exact Op.Makes.none fun _ => rfl
  · refine Op.Makes.bind (n := 0) (m := 9) (Op.Makes.none fun _ => rfl) (fun _ => ?_) (by omega)
    split
    · exact configureOp_makes _ _ _
    · exact Op.Makes.none fun _ => rfl

theorem tcalcOp_makes (m : BusMode) (P : Access → Prop) : Op.Makes 0 P (tcalcOp m) := by
  unfold tcalcOp
  refine Op.Makes.bind (n := 0) (m := 0) (Op.Makes.none fun _ => rfl) (fun _ => ?_) (by omega)
  split <;> exact Op.Makes.none fun _ => rfl

/-! ### No operation leaves the seven registers (rules R40, R42) -/

/-- `x` never stops at an unreachable address. -/
def Op.Reachable {α : Type} (x : Op α) : Prop := ∀ s a t, x s ≠ .error (.unreachable a) t

theorem Op.Reachable.bind {α β : Type} {x : Op α} {f : α → Op β} (h : x.Reachable) (hf : ∀ a, (f a).Reachable) :
    (x >>= f).Reachable := by
  intro s a t
  cases hs : x s with
  | ok b u =>
    rw [Op.bind_ok hs]
    exact hf b u a t
  | error e u =>
    rw [Op.bind_error hs]
    intro h'
    cases h'
    exact h s a t hs

theorem regRead_reachable (r : Reg) : (regRead r).Reachable := by
  intro s a t
  rcases regRead_cases r s with ⟨_, h1⟩ | ⟨_, h1⟩ <;> rw [h1] <;> simp

theorem regWrite_reachable (r : Reg) (v : Word) : (regWrite r v).Reachable := by
  intro s a t
  rcases regWrite_cases r v s with ⟨_, h1⟩ | ⟨_, h1⟩ <;> rw [h1] <;> simp

theorem pure_reachable {α : Type} (a : α) : Op.Reachable (pure a) := fun _ _ _ h => nomatch h
theorem get_reachable : Op.Reachable (get : Op State) := fun _ _ _ h => nomatch h
theorem setResult_reachable (f : Result → Result) : (setResult f).Reachable := fun _ _ _ h => nomatch h
theorem setBlock_reachable (f : Block → Block) : (setBlock f).Reachable := fun _ _ _ h => nomatch h
theorem emitSink_reachable (b : Byte) : (emitSink b).Reachable := by
  intro s a t
  rcases emitSink_cases b s with ⟨_, h⟩ | ⟨_, h⟩ <;> rw [h] <;> simp
theorem raise_reachable (f : SeuFault) : (raise f).Reachable := fun _ _ _ h => nomatch h

theorem errclrOp_reachable : errclrOp.Reachable := by
  refine (regRead_reachable _).bind fun v => ?_
  dsimp only
  split
  · exact (regWrite_reachable _ _).bind fun _ => setResult_reachable _
  · exact setResult_reachable _

theorem decodeOp_reachable : decodeOp.Reachable :=
  (regRead_reachable _).bind fun _ => (regRead_reachable _).bind fun _ =>
    (setResult_reachable _).bind fun _ => pure_reachable _

theorem sendOp_reachable (b : Byte) : (sendOp b).Reachable :=
  (regWrite_reachable _ _).bind fun _ => setResult_reachable _

theorem recvOp_reachable : recvOp.Reachable :=
  (regRead_reachable _).bind fun _ => (setResult_reachable _).bind fun _ => pure_reachable _

theorem addrackOp_reachable : addrackOp.Reachable := by
  refine (regRead_reachable _).bind fun _ => ?_
  split
  · exact (regRead_reachable _).bind fun _ => pure_reachable _
  · exact pure_reachable _

theorem stopackLoop_reachable (left n : Nat) : (stopackLoop left n).Reachable := by
  induction left generalizing n with
  | zero =>
    refine (regRead_reachable _).bind fun _ => (setResult_reachable _).bind fun _ => ?_
    split
    · exact raise_reachable _
    · exact pure_reachable _
  | succ left ih =>
    refine (regRead_reachable _).bind fun _ => ?_
    split
    · exact (regRead_reachable _).bind fun _ => (regWrite_reachable _ _).bind fun _ => ih _
    · exact setResult_reachable _

theorem stopackOp_reachable : stopackOp.Reachable := stopackLoop_reachable _ _

theorem stopclrOp_reachable : stopclrOp.Reachable := addrackOp_reachable.bind fun _ => stopackOp_reachable

theorem respondOp_reachable (first : Bool) : (respondOp first).Reachable :=
  get_reachable.bind fun _ => (setResult_reachable _).bind fun _ => sendOp_reachable _

theorem dispatchOp_reachable (ev : Event) : (dispatchOp ev).Reachable := by
  cases ev with
  | absence => exact pure_reachable _
  | receiverAddressMatched => exact pure_reachable _
  | byteReceived => exact recvOp_reachable.bind fun _ => emitSink_reachable _
  | transmitterAddressMatched => exact respondOp_reachable _
  | byteTransmitted => exact respondOp_reachable _
  | byteTransmitting => exact respondOp_reachable _
  | stopDetected => exact stopclrOp_reachable

theorem pollOp_reachable : pollOp.Reachable :=
  errclrOp_reachable.bind fun _ => decodeOp_reachable.bind fun _ => dispatchOp_reachable _

theorem tapplyOp_reachable (trise : BitVec 6) (div : BitVec 12) (fs duty : Bool) :
    (tapplyOp trise div fs duty).Reachable :=
  (regRead_reachable _).bind fun _ => (regWrite_reachable _ _).bind fun _ => (regWrite_reachable _ _).bind fun _ =>
    (regWrite_reachable _ _).bind fun _ => (regRead_reachable _).bind fun _ => (regWrite_reachable _ _).bind fun _ =>
      (regRead_reachable _).bind fun _ => regWrite_reachable _ _

theorem configureOp_reachable (t : TimingValues) (i : Inputs) (c : BitVec 32) : (configureOp t i c).Reachable :=
  (setBlock_reachable _).bind fun _ => (tapplyOp_reachable _ _ _ _).bind fun _ => (setBlock_reachable _).bind fun _ =>
    (regWrite_reachable _ _).bind fun _ => setBlock_reachable _

theorem fatal_reachable (f : SeuFault) : (fatal f).Reachable :=
  (setBlock_reachable _).bind fun _ => raise_reachable _

theorem initOp_reachable (m : BusMode) : (initOp m).Reachable := by
  refine get_reachable.bind fun _ => ?_
  split
  · exact fatal_reachable _
  · refine (setResult_reachable _).bind fun _ => ?_
    split
    · exact configureOp_reachable _ _ _
    · exact fatal_reachable _

theorem tcalcOp_reachable (m : BusMode) : (tcalcOp m).Reachable := by
  refine get_reachable.bind fun _ => ?_
  split
  · exact raise_reachable _
  · exact setResult_reachable _

/-! ### Refused or run -/

/-- The operation a command runs when it is accepted. -/
inductive Runs : Instr → Op Unit → Prop where
  | init (m : BusMode) : Runs .init (initOp m)
  | poll : Runs .poll pollOp
  | tcalc (m : BusMode) : Runs .tcalc (tcalcOp m)
  | decode : Runs .decode (do let _ ← decodeOp)
  | errclr : Runs .errclr errclrOp
  | send (b : Byte) : Runs (.send b) (sendOp b)
  | recv : Runs .recv (do let _ ← recvOp)
  | addrack : Runs .addrack addrackOp
  | stopack : Runs .stopack stopackOp
  | stopclr : Runs .stopclr stopclrOp

/-- Everything `exec` can do: refuse the command, or pass the gate and run its operation to its end. -/
theorem exec_cases (i : Instr) (s : State) :
    (∃ r, exec i s = .next (s.refusedFor r)) ∨
    (∃ op, Runs i op ∧ gate i s = none ∧ exec i s = concluded (op s.begun)) := by
  have plain : ∀ op, Runs i op → exec i s = gated i op s →
      (∃ r, exec i s = .next (s.refusedFor r)) ∨
      (∃ op, Runs i op ∧ gate i s = none ∧ exec i s = concluded (op s.begun)) := by
    intro op hop he
    rcases gated_cases i op s with ⟨r, _, h⟩ | ⟨h, h'⟩
    · exact .inl ⟨r, he.trans h⟩
    · exact .inr ⟨op, hop, h, he.trans h'⟩
  have mode : ∀ op : BusMode → Op Unit, (∀ m, Runs i (op m)) → exec i s = gatedMode i op s →
      (∃ r, exec i s = .next (s.refusedFor r)) ∨
      (∃ op, Runs i op ∧ gate i s = none ∧ exec i s = concluded (op s.begun)) := by
    intro op hop he
    rcases gatedMode_cases i op s with ⟨r, h⟩ | ⟨m, h, _, h'⟩
    · exact .inl ⟨r, he.trans h⟩
    · exact .inr ⟨op m, hop m, h, he.trans h'⟩
  cases i with
  | init => exact mode _ .init rfl
  | poll => exact plain _ .poll rfl
  | tcalc => exact mode _ .tcalc rfl
  | decode => exact plain _ .decode rfl
  | errclr => exact plain _ .errclr rfl
  | send b => exact plain _ (.send b) rfl
  | recv => exact plain _ .recv rfl
  | addrack => exact plain _ .addrack rfl
  | stopack => exact plain _ .stopack rfl
  | stopclr => exact plain _ .stopclr rfl

/-- No accepted operation stops at an unreachable address. -/
theorem Runs.reachable {i : Instr} {op : Op Unit} (h : Runs i op) : op.Reachable := by
  cases h with
  | init m => exact initOp_reachable m
  | poll => exact pollOp_reachable
  | tcalc m => exact tcalcOp_reachable m
  | decode => exact decodeOp_reachable.bind fun _ => pure_reachable _
  | errclr => exact errclrOp_reachable
  | send b => exact sendOp_reachable b
  | recv => exact recvOp_reachable.bind fun _ => pure_reachable _
  | addrack => exact addrackOp_reachable
  | stopack => exact stopackOp_reachable
  | stopclr => exact stopclrOp_reachable

/-- How an operation that reaches only registers ends: returned `Ok`, returned with a fault, or abandoned. -/
theorem concluded_reachable {op : Op Unit} (h : op.Reachable) (s : State) :
    (∃ t, op s = .ok () t ∧ concluded (op s) = .next (t.ended .ok 0)) ∨
    (∃ f t, op s = .error (.raised f) t ∧ concluded (op s) = .next (t.ended .fault f.code)) ∨
    (∃ t, op s = .error .reset t ∧ concluded (op s) = .next t.hostReset) := by
  rcases concluded_cases (op s) with h1 | h2 | h3 | ⟨a, t, h4, _⟩
  · exact .inl h1
  · exact .inr (.inl h2)
  · exact .inr (.inr h3)
  · exact absurd h4 (h s a t)

end Sys2Proof.Machine
end

