-- ==== Sys2Proof/Laws/PerInstr.lean ====
section
/-! SUPPORT. What holds of every operation as syntax, one lemma per constructor: the format of its command word
(rules R70 to R72). -/

namespace Sys2Proof.Laws.Format

/-- The command word of an operation carries its selector in bits [15:12], zeros in bits [11:8], and its immediate byte
in bits [7:0]. -/
def Statement (i : Instr) : Prop := commandFields (encode i) = i.fields ∧ i.fields.wf = true

theorem init : Statement .init := by unfold Statement; decide
theorem poll : Statement .poll := by unfold Statement; decide
theorem tcalc : Statement .tcalc := by unfold Statement; decide
theorem decode : Statement .decode := by unfold Statement; decide
theorem errclr : Statement .errclr := by unfold Statement; decide
theorem send (b : Byte) : Statement (.send b) := by
  unfold Statement
  revert b
  decide +kernel
theorem recv : Statement .recv := by unfold Statement; decide
theorem addrack : Statement .addrack := by unfold Statement; decide
theorem stopack : Statement .stopack := by unfold Statement; decide
theorem stopclr : Statement .stopclr := by unfold Statement; decide

end Sys2Proof.Laws.Format
end

