-- ==== Sys2Proof/Tests/Slice0.lean ====
section
/-! SUPPORT. Tests: ill-formed words, decoded words, test vectors of 95_test_vectors.md (each names its row), and for
every statement with hypotheses a witness that meets them. Expected values are the spec's, none is the model's own
answer. -/

-- One test after the other: elaborated side by side, every test that asks the kernel holds a thread of its own.
set_option Elab.async false

namespace Sys2Proof.Tests

open Sys2Proof Sys2Proof.Machine

/-! ### Well-formedness: one ill-formed term per check (rule R73) -/

theorem test_wf_refuses_selector : ({ op := 0xB, zero := 0, imm8 := 0 } : CommandFields).wf = false := by decide +kernel
theorem test_wf_refuses_reserved_bits : ({ op := 0x6, zero := 1, imm8 := 0 } : CommandFields).wf = false := by decide +kernel
theorem test_wf_refuses_immediate : ({ op := 0x7, zero := 0, imm8 := 0xA5 } : CommandFields).wf = false := by decide +kernel
theorem test_wf_accepts_send : ({ op := 0x6, zero := 0, imm8 := 0xFF } : CommandFields).wf = true := by decide +kernel

/-! ### Decoding: words written out bit by bit from rules R70 and R72, and the illegal words of section 2.8 -/

theorem test_decode_init : decodeWord 0b0001000000000000 = .ok .init := by rfl
theorem test_decode_poll : decodeWord 0b0010000000000000 = .ok .poll := by rfl
theorem test_decode_tcalc : decodeWord 0b0011000000000000 = .ok .tcalc := by rfl
theorem test_decode_decode : decodeWord 0b0100000000000000 = .ok .decode := by rfl
theorem test_decode_errclr : decodeWord 0b0101000000000000 = .ok .errclr := by rfl
theorem test_decode_send : decodeWord 0b0110000010100101 = .ok (.send 0b10100101) := by rfl
theorem test_decode_recv : decodeWord 0b0111000000000000 = .ok .recv := by rfl
theorem test_decode_addrack : decodeWord 0b1000000000000000 = .ok .addrack := by rfl
theorem test_decode_stopack : decodeWord 0b1001000000000000 = .ok .stopack := by rfl
theorem test_decode_stopclr : decodeWord 0b1010000000000000 = .ok .stopclr := by rfl

/-- Section 2.8: the illegal words of the table, and rule R73's name for what is wrong with each. -/
theorem test_decode_illegal :
    ([0x0000, 0x1001, 0x2100, 0x6100, 0x6FFF, 0x70A5, 0xB000, 0xF000, 0xFFFF].map
      (fun w => decodeTableWord 16 w)) = List.replicate 9 none ∧
    illegalReason 0x0000 = .reservedSelector ∧ illegalReason 0x6100 = .reservedBits ∧
    illegalReason 0x70A5 = .unexpectedImmediate := by decide +kernel

/-- Rule R86: the textual form. -/
theorem test_text_send : (Instr.send 0xA5).text = "SEND #0xA5" ∧ Instr.stopclr.text = "STOPCLR" := by decide +kernel

/-! ### States and what is looked at -/

/-- The bus engine sets one register just before an access; the peripheral then obeys the premises. -/
def sets (r : Reg) (v : Word) : EnvMove := { EnvMove.quiet with engine := [(r, v)] }

/-- A state in phase `Ready` with these moves around its next accesses. -/
def ready (env : List EnvMove) : State :=
  { State.reset with block := { State.reset.block with phase := .ready }, env := env }

/-- A state in phase `Unconfigured` with a BusMode, a clock and a frequency on the inputs, and these moves. -/
def fresh (fast duty : Bool) (clock freq : BitVec 32) (addr : BitVec 7) (env : List EnvMove) : State :=
  { State.reset with
    inputs := { Inputs.zero with
      cfgModeFast := fast, cfgModeDuty := duty, cfgClockHz := clock, cfgFreqHz := freq, cfgOwnAddr := addr }
    env := env }

/-- A part of the next state of an outcome. -/
def look {α : Type} (f : State → α) : Host.Outcome State Fault Refusal → Option α
  | .next t => some (f t)
  | .fault _ => none
  | .refused _ => none

/-- The accesses made and the result record. -/
def seen (o : Host.Outcome State Fault Refusal) : Option (List Access × Result) :=
  look (fun t => (t.trace, t.result)) o

/-! ### INIT -/

/-- Program P6, step 3: the peripheral is found enabled, with `ACK` and the unnamed bit 7 set. -/
theorem test_init_acknowledges_after_enable :
    seen (exec .init (fresh false false 8000000 100000 0x7F
      (sets .CR 0x0481 :: List.replicate 8 EnvMove.quiet))) =
    some ([.read .CR 0x0481, .write .CR 0x0080, .write .TRISE 0x0009, .write .CCR 0x0028, .read .CR 0x0080,
      .write .CR 0x0081, .read .CR 0x0081, .write .CR 0x04C1, .write .OAR 0x00FE],
      { Result.zero with triseN := 9, divN := 40 }) := by decide +kernel

/-- Section 2.1, row 30: the divisor does not fit; no access, and the result carries the values. -/
theorem test_init_overflow_before_any_access :
    seen (exec .init (fresh false false 36000000 1 0x42 [])) =
    some ([], { Result.zero with status := .fault, code := 3, triseN := 37, divN := 18000000 }) := by decide +kernel

/-! ### POLL -/

/-- Section 2.7, row 9: an overrun beside a received byte. -/
theorem test_poll_reports_error_and_byte :
    (look (fun t => (t.trace, t.result, t.sink))
      (exec .poll (ready [sets .SR1 0x0840, sets .SR1 0x0840, sets .SR1 0x0040, sets .SR2 0x0002,
        sets .DR 0x0077]))) =
    some ([.read .SR1 0x0840, .write .SR1 0x0040, .read .SR1 0x0040, .read .SR2 0x0002, .read .DR 0x0077],
      { Result.zero with event := 3, errs := 0x08, rxValid := true, rxByte := 0x77 }, [0x77]) := by decide +kernel

/-- Section 2.7, row 4, with `tx_data` presented only before the write's predecessor (rule R176). -/
theorem test_poll_samples_tx_data_late :
    seen (exec .poll (ready [sets .SR1 0x0082, sets .SR1 0x0082, { sets .SR2 0x0006 with tx := some 0x3C },
      EnvMove.quiet])) =
    some ([.read .SR1 0x0082, .read .SR1 0x0082, .read .SR2 0x0006, .write .DR 0x003C],
      { Result.zero with event := 2, txReq := true, txFirst := true }) := by decide +kernel

/-! ### TCALC -/

/-- Section 2.1, row 9: 8 * 300 / 1000 is 2, the floor of 2.4. -/
theorem test_tcalc_fast_floor :
    seen (exec .tcalc (fresh true false 8000000 400000 0 [])) =
    some ([], { Result.zero with triseN := 3, divN := 6, fs := true }) := by decide +kernel

/-- Section 2.1, row 29: the mode is checked before the frequency. -/
theorem test_tcalc_mode_before_frequency :
    seen (exec .tcalc (fresh false true 36000000 400001 0 [])) =
    some ([], { Result.zero with status := .refused, code := 4 }) := by decide +kernel

/-! ### DECODE -/

/-- Section 2.3, row 2: every bit of SR2 but `TRA`. -/
theorem test_decode_ignores_unnamed_bits :
    seen (exec .decode (ready [sets .SR1 0x0002, sets .SR2 0xFFFB])) =
    some ([.read .SR1 0x0002, .read .SR2 0xFFFB], { Result.zero with event := 1 }) := by decide +kernel

/-- Section 2.3, row 16: everything but `ADDR` and `RXNE`. -/
theorem test_decode_transmitted_before_transmitting :
    seen (exec .decode (ready [sets .SR1 0xFFBD, sets .SR2 0xFFFF])) =
    some ([.read .SR1 0xFFBD, .read .SR2 0xFFFF], { Result.zero with event := 5 }) := by decide +kernel

/-- The snapshot with a given index (rule R144). -/
def atIndex (n : Nat) : Snapshot where
  busy := n.testBit 6
  addr := n.testBit 5
  tra := n.testBit 4
  txe := n.testBit 3
  rxne := n.testBit 2
  btf := n.testBit 1
  stopf := n.testBit 0

/-- Section 2.2: the counts of the seven outcomes over all 128 snapshots, and the index. -/
theorem test_classifier_counts :
    ([Event.absence, .stopDetected, .byteReceived, .receiverAddressMatched, .transmitterAddressMatched,
      .byteTransmitting, .byteTransmitted].map
        (fun e => (List.range 128).countP (fun n => classify (atIndex n) == e))) = [40, 40, 20, 16, 8, 2, 2] ∧
    (snapshot 0x0002 0x0006).index = 112 := by decide +kernel

/-! ### ERRCLR -/

/-- Section 2.4, row 13: every bit set. -/
theorem test_errclr_keeps_other_bits :
    seen (exec .errclr (ready [sets .SR1 0xFFFF, EnvMove.quiet])) =
    some ([.read .SR1 0xFFFF, .write .SR1 0x20FF], { Result.zero with errs := 0x7F }) := by decide +kernel

/-- Section 2.4, row 15: the order of `errs` is the source's, not the bits'. -/
theorem test_errclr_order :
    seen (exec .errclr (ready [sets .SR1 0x5040, EnvMove.quiet])) =
    some ([.read .SR1 0x5040, .write .SR1 0x0040], { Result.zero with errs := 0x30 }) := by decide +kernel

/-! ### SEND, RECV -/

/-- Section 2.5, row 2, through the command port: word 0x60A5. -/
theorem test_send_word :
    seen (step ((ready [EnvMove.quiet]).withFetchWord 16 0x60A5)) =
    some ([.write .DR 0x00A5], { Result.zero with txReq := true }) := by decide +kernel

/-- Section 2.5, row 5: the upper byte is dropped. -/
theorem test_recv_drops_upper_byte :
    seen (exec .recv (ready [sets .DR 0xFF5A])) =
    some ([.read .DR 0xFF5A], { Result.zero with rxValid := true, rxByte := 0x5A }) := by decide +kernel

/-! ### ADDRACK, STOPACK, STOPCLR -/

/-- Section 2.6, row 2. -/
theorem test_addrack_reads_sr2 :
    seen (exec .addrack (ready [sets .SR1 0x0012, sets .SR2 0x0000])) =
    some ([.read .SR1 0x0012, .read .SR2 0x0000], Result.zero) := by decide +kernel

/-- Section 2.6, row 4: every bit but `ADDR`. -/
theorem test_addrack_without_match :
    seen (exec .addrack (ready [sets .SR1 0xFFFD])) = some ([.read .SR1 0xFFFD], Result.zero) := by decide +kernel

/-- Section 2.6, row 7: the acknowledge bit is put back, the rest of CR kept. -/
theorem test_stopack_reasserts_ack :
    seen (exec .stopack (ready [sets .SR1 0x0010, sets .CR 0x0041, EnvMove.quiet, sets .SR1 0x0000])) =
    some ([.read .SR1 0x0010, .read .CR 0x0041, .write .CR 0x0441, .read .SR1 0x0000],
      { Result.zero with iters := 1 }) := by decide +kernel

/-- Section 2.6, row 10: 25 accesses, then the fault. -/
theorem test_stopack_gives_up :
    look (fun t => (t.trace.length, t.result)) (exec .stopack (ready (List.replicate 25 (sets .SR1 0x0010)))) =
    some (25, { Result.zero with status := .fault, code := 5, iters := 8 }) := by decide +kernel

/-- Section 2.6, row 12. -/
theorem test_stopclr_both_sequences :
    seen (exec .stopclr (ready [sets .SR1 0x0012, sets .SR2 0x0000, sets .SR1 0x0010, sets .CR 0x0441,
      EnvMove.quiet, sets .SR1 0x0000])) =
    some ([.read .SR1 0x0012, .read .SR2 0x0000, .read .SR1 0x0010, .read .CR 0x0441, .write .CR 0x0441,
      .read .SR1 0x0000], { Result.zero with iters := 1 }) := by decide +kernel

/-! ### The peripheral behind the port -/

/-- No premise is built into the port (rule R57): under this environment a write of SR1 clears no error flag. -/
theorem test_premises_are_not_built_in :
    look (fun t => t.per.regs.sr1) (exec .errclr (ready [sets .SR1 0x0100,
      { EnvMove.quiet with react := some { State.reset.per with
          regs := { Config.periphResetValues with sr1 := 0x0100 } } }])) = some 0x0100 := by decide +kernel

/-- Rule R205: a reset between the read of DR and the sink strobe (section 2.7, row 3) keeps the byte from the sink. -/
theorem test_reset_before_the_sink_strobe :
    (look (fun t => (t.trace.length, t.sink, t.block.phase, t.returned))
      (exec .poll { ready [sets .SR1 0x0040, sets .SR1 0x0040, sets .SR2 0x0002, sets .DR 0x00A5] with
        resetAfter := some 4 })) = some (4, [], .unconfigured, false) := by decide +kernel

/-- Rules R203, R205: a reset during TCALC, which makes no access, ends it with nothing returned. -/
theorem test_reset_during_tcalc :
    (look (fun t => (t.block.phase, t.returned)) (exec .tcalc { ready [] with resetAfter := some 0 })) =
      some (.unconfigured, false) := by decide +kernel

/-! ### Witnesses: the hypotheses of every statement can be met -/

/-- A ready state in a silent environment. -/
def quietReady : State := ready (List.replicate 31 EnvMove.quiet)

/-- The hypotheses that a part of the statements begin with: `State.Ready`, and the silent environment. -/
theorem test_witness_ready : quietReady.Ready ∧ quietReady.QuietFor 31 ∧ quietReady.QuietFor 4 :=
  ⟨⟨rfl, rfl, rfl⟩, ⟨[], rfl⟩, ⟨List.replicate 27 EnvMove.quiet, rfl⟩⟩

/-- DecodeOfEncodeIsTheOperation: every operation is well formed at the ends of its operand's range. -/
theorem test_witness_wellFormed :
    ∀ i ∈ [Instr.init, .poll, .tcalc, .decode, .errclr, .send 0x00, .send 0xFF, .recv, .addrack, .stopack, .stopclr],
      i.WellFormed := by decide +kernel

/-- EncodeOfDecodeIsTheWord and OpcodeRowsAreDisjoint. -/
theorem test_witness_legal_word : decodeWord 0x60FF = .ok (.send 0xFF) ∧
    (⟨.SEND, 0x6000, 0xFF00⟩ : OpcodeRow) ∈ opcodeTable ∧
    (⟨.SEND, 0x6000, 0xFF00⟩ : OpcodeRow).selects 0x60FF = true := by decide +kernel

/-- IllegalCommandIsRefused, each alternative at its boundary (0x0FFF, 0xB000, 0x2100, 0x7001). -/
theorem test_witness_illegal :
    (quietReady.presenting 0x0FFF).host = .command 0x0FFF quietReady.inputs none :: [] ∧
    (0x0FFF : Word).toNat / 4096 = 0 ∧ 11 ≤ (0xB000 : Word).toNat / 4096 ∧
    (0x2100 : Word).toNat / 256 % 16 ≠ 0 ∧ (0x7001 : Word).toNat / 4096 ≠ 6 ∧ (0x7001 : Word).toNat % 256 ≠ 0 := by
  refine ⟨rfl, ?_⟩
  decide +kernel

/-- StepRunsTheDecodedCommand. -/
theorem test_witness_presented :
    (quietReady.presenting 0x2000).host = .command 0x2000 quietReady.inputs none :: [] ∧
    decodeWord 0x2000 = .ok .poll ∧ quietReady.host = [] := ⟨rfl, rfl, rfl⟩

/-- RefusalsFollowTheGatingTable, clause by clause. -/
theorem test_witness_gating :
    ({ State.reset with straps := { exposeComponentOps := false, cyclesPerUs := 1 } } : State).straps.exposeComponentOps
      = false ∧
    quietReady.block.phase = .ready ∧
    ({ State.reset with block := { State.reset.block with phase := .failed } } : State).block.phase = .failed ∧
    State.reset.block.phase ≠ .ready ∧ State.reset.straps.exposeComponentOps = true ∧
    (fresh false true 0 1 0 []).inputs.cfgModeFast = false ∧ (fresh false true 0 1 0 []).inputs.cfgModeDuty = true ∧
    (fresh false true 0 1 0 []).block.phase = .unconfigured ∧
    quietReady.resetAfter = none ∧ (fresh false true 0 1 0 []).resetAfter = none := by decide +kernel

/-- TcalcStandard, TcalcFastTwoToOne and TcalcFastSixteenToNine at both ends of the frequency range. -/
theorem test_witness_tcalc :
    (∀ f fast duty, (fresh fast duty 36000000 f 0 []).resetAfter = none) ∧
    ∀ f ∈ [(1 : BitVec 32), 400000], ∀ m ∈ [(false, false), (true, false), (true, true)],
      (fresh m.1 m.2 36000000 f 0 []).straps.exposeComponentOps = true ∧
      (fresh m.1 m.2 36000000 f 0 []).inputs.cfgModeFast = m.1 ∧
      (fresh m.1 m.2 36000000 f 0 []).inputs.cfgModeDuty = m.2 ∧
      1 ≤ (fresh m.1 m.2 36000000 f 0 []).inputs.cfgFreqHz.toNat ∧
      (fresh m.1 m.2 36000000 f 0 []).inputs.cfgFreqHz.toNat ≤ 400000 :=
  ⟨fun _ _ _ => rfl, by decide +kernel⟩

/-- TcalcFrequencyFaults and InitFrequencyFaults, each clause at its boundary: 400001 and 0. -/
theorem test_witness_frequency_faults :
    (fresh true true 36000000 400001 0 []).resetAfter = none ∧ (fresh false false 36000000 0 0 []).resetAfter = none ∧
    (fresh true true 36000000 400001 0 []).inputs.cfgModeFast = true ∧
    (fresh false false 36000000 0 0 []).inputs.cfgModeDuty = false ∧
    (fresh true true 36000000 400001 0 []).straps.exposeComponentOps = true ∧
    (fresh true true 36000000 400001 0 []).block.phase = .unconfigured ∧
    400000 < (fresh true true 36000000 400001 0 []).inputs.cfgFreqHz.toNat ∧
    (fresh false false 36000000 0 0 []).straps.exposeComponentOps = true ∧
    (fresh false false 36000000 0 0 []).block.phase = .unconfigured ∧
    (fresh false false 36000000 0 0 []).inputs.cfgFreqHz.toNat = 0 := by decide +kernel

/-- CalculatorBounds at the ends of both ranges. -/
theorem test_witness_calculator :
    (4294967295 < 2 ^ 32 ∧ 1 ≤ 1 ∧ 1 ≤ 400000) ∧ (0 < 2 ^ 32 ∧ 1 ≤ 400000 ∧ 400000 ≤ 400000) := by decide +kernel

/-- Section 2.1, rows 15 and 12: the largest rise time and the largest divisor that fit. -/
def largestRise : State := fresh false false 62999999 100000 0x42 (List.replicate 9 EnvMove.quiet)
/-- Section 2.1, row 12. -/
def largestDivisor : State := fresh false false 36000000 4395 0x42 (List.replicate 9 EnvMove.quiet)

/-- InitConfigures, InitLeavesThePeripheralReady and InitKeepsTheEnableOrder. -/
theorem test_witness_init :
    ∀ p ∈ [(largestRise, (100000 : Nat)), (largestDivisor, 4395)],
      p.1.block.phase = .unconfigured ∧ p.1.resetAfter = none ∧ p.1.env = List.replicate 9 EnvMove.quiet ++ [] ∧
      busMode p.1.inputs = some (.standard p.2) ∧
      1 ≤ p.1.inputs.cfgFreqHz.toNat ∧ p.1.inputs.cfgFreqHz.toNat ≤ 400000 ∧
      (timingCalc p.1.inputs.cfgClockHz.toNat (.standard p.2)).triseN < 64 ∧
      (timingCalc p.1.inputs.cfgClockHz.toNat (.standard p.2)).divN < 4096 ∧
      (look (fun t => t.block.phase) (exec .init p.1)) = some .ready := by decide +kernel

/-- InitFieldOverflow, each alternative at its boundary: rows 16 and 13 of section 2.1. -/
theorem test_witness_overflow :
    (fresh false false 63000000 100000 0 []).block.phase = .unconfigured ∧
    (fresh false false 63000000 100000 0 []).resetAfter = none ∧ (fresh false false 36000000 4394 0 []).resetAfter = none ∧
    busMode (fresh false false 63000000 100000 0 []).inputs = some (.standard 100000) ∧
    64 ≤ (timingCalc (fresh false false 63000000 100000 0 []).inputs.cfgClockHz.toNat (.standard 100000)).triseN ∧
    (fresh false false 36000000 4394 0 []).block.phase = .unconfigured ∧
    busMode (fresh false false 36000000 4394 0 []).inputs = some (.standard 4394) ∧
    4096 ≤ (timingCalc (fresh false false 36000000 4394 0 []).inputs.cfgClockHz.toNat (.standard 4394)).divN := by decide +kernel

/-- A ready state whose SR1 reads 0x0100 (`BERR`) in a silent environment. -/
def errorPending : State := { quietReady with
  per := { quietReady.per with regs := { quietReady.per.regs with sr1 := 0x0100 } } }

/-- ErrclrClearsAllSeven. -/
theorem test_witness_errclr :
    errorPending.block.phase = .ready ∧ errBits (errorPending.answer .SR1) ≠ 0 ∧
    ClearByWriteZero ((errorPending.access (.read .SR1 (errorPending.answer .SR1))).event
      (.write .SR1 (errorPending.answer .SR1 &&& ~~~0xDF00))) := by
  refine ⟨rfl, by decide +kernel, ?_⟩
  intro v hv
  cases hv
  decide

/-- ErrclrLeavesClearFlagsClear, with SR1 at 0x20FF: every bit but the error flags (section 2.4, row 11). -/
theorem test_witness_nothing_pending :
    let s : State := { quietReady with
      per := { quietReady.per with regs := { quietReady.per.regs with sr1 := 0x20FF } } }
    s.Ready ∧ errBits (s.answer .SR1) = 0 ∧ StickyErrors (s.event (.read .SR1 (s.answer .SR1))) := by
  refine ⟨⟨rfl, rfl, rfl⟩, by decide +kernel, by decide +kernel, fun _ _ _ => rfl, ?_, ?_⟩
  · intro r v hv
    cases hv
  · intro v hv
    cases hv

/-- The bus engine shows `BERR` at the read of ERRCLR and has set `OVR` beside it by the write (rule R130). -/
def errorBetween : State := ready [sets .SR1 0x0100, sets .SR1 0x0900]

/-- LostErrorWindow, with a flag that was set between the read and the write. -/
theorem test_witness_lost_error :
    errorBetween.Ready ∧ errBits (errorBetween.answer .SR1) ≠ 0 ∧
    ClearByWriteZero ((errorBetween.access (.read .SR1 (errorBetween.answer .SR1))).event
      (.write .SR1 (errorBetween.answer .SR1 &&& ~~~0xDF00))) ∧
    (errBits (errorBetween.access (.read .SR1 (errorBetween.answer .SR1))).found.regs.sr1).getLsbD 3 = true ∧
    (errBits (errorBetween.answer .SR1)).getLsbD 3 = false := by
  refine ⟨⟨rfl, rfl, rfl⟩, by decide +kernel, ?_, by decide +kernel, by decide +kernel⟩
  intro v hv
  cases hv
  decide

/-- A ready state with `BUSY`, `ADDR` and `TRA` alone, in a silent environment. -/
def unreported : State := { quietReady with
  per := { quietReady.per with regs := { quietReady.per.regs with sr1 := 0x0002, sr2 := 0x0006 } } }

/-- DecodeReleasesTheAddressMatch and AddressMatchConsumedUnreported. -/
theorem test_witness_address_match :
    let s1 := unreported.access (.read .SR1 (unreported.answer .SR1))
    unreported.Ready ∧ AddrClearSeq (unreported.event (.read .SR1 (unreported.answer .SR1))) ∧
    AddrClearSeq (s1.event (.read .SR2 (s1.answer .SR2))) ∧
    snapshot (unreported.answer .SR1) (s1.answer .SR2) =
      { busy := true, addr := true, tra := true, txe := false, rxne := false, btf := false, stopf := false } := by
  refine ⟨⟨rfl, rfl, rfl⟩, ⟨?_, ?_⟩, ⟨?_, ?_⟩, by decide +kernel⟩
  · intro v _
    rfl
  · intro v hv
    cases hv
  · intro v hv
    cases hv
  · intro v _ _
    decide

/-- StopackConvergesInTheObedientPeripheral with the flag set and with it clear. -/
theorem test_witness_stop :
    sr1STOPF ({ quietReady with
      per := { quietReady.per with regs := { quietReady.per.regs with sr1 := 0x0010 } } } : State).per.regs.sr1 = true ∧
    sr1STOPF quietReady.per.regs.sr1 = false := by decide +kernel

/-- StopackConvergesInOneIteration: the first clause's hypothesis, and all of the second's. -/
theorem test_witness_one_iteration :
    let s : State := { quietReady with
      per := { quietReady.per with regs := { quietReady.per.regs with sr1 := 0x0010 } } }
    let s1 := s.access (.read .SR1 (s.answer .SR1))
    let s2 := s1.access (.read .CR (s1.answer .CR))
    let write := Access.write .CR (s1.answer .CR ||| 0x0400)
    sr1STOPF (quietReady.answer .SR1) = false ∧ s.Ready ∧ sr1STOPF (s.answer .SR1) = true ∧
    StopClearSeq (s.event (.read .SR1 (s.answer .SR1))) ∧ CrReadsArePure (s1.event (.read .CR (s1.answer .CR))) ∧
    StopClearSeq (s2.event write) ∧ (s2.access write).move.engine = [] := by
  refine ⟨by decide +kernel, ⟨rfl, rfl, rfl⟩, by decide +kernel, ⟨fun _ _ => rfl, ?_⟩, fun _ _ => rfl, ⟨?_, ?_⟩, rfl⟩
  · intro v hv
    cases hv
  · intro v hv
    cases hv
  · intro v _ _
    decide

/-- A ready state in which the bus engine shows `STOPF` before every access. -/
def neverClears : State := ready (List.replicate 25 (sets .SR1 0x0010))

/-- StopackNonConvergence, with CR reading 0x0000 every time: a disabled peripheral keeps no `ACK`. -/
theorem test_witness_never_clears :
    neverClears.Ready ∧ (List.replicate 8 ((0x0010 : Word), (0x0000 : Word))).length = 8 ∧
    neverClears.answered (stopackAccesses (List.replicate 8 (0x0010, 0x0000)) 0x0010) ∧
    (∀ p ∈ List.replicate 8 ((0x0010 : Word), (0x0000 : Word)), sr1STOPF p.1 = true) ∧
    sr1STOPF 0x0010 = true := by
  refine ⟨⟨rfl, rfl, rfl⟩, rfl, ?_, fun _ h => by rw [List.eq_of_mem_replicate h]; rfl, rfl⟩
  repeat first | exact trivial | refine ⟨rfl, ?_⟩

/-- PollRuns: a ready state for each of the four alternatives (section 2.7, rows 1, 3, 6 and 7). -/
theorem test_witness_poll_events :
    ([[sets .SR1 0x0000, sets .SR1 0x0000, sets .SR2 0x0000],
      [sets .SR1 0x0040, sets .SR1 0x0040, sets .SR2 0x0002, sets .DR 0x00A5],
      [sets .SR1 0x0080, sets .SR1 0x0080, sets .SR2 0x0006, EnvMove.quiet],
      [sets .SR1 0x0010, sets .SR1 0x0010, sets .SR2 0x0000, sets .SR1 0x0010, sets .SR1 0x0010, sets .CR 0x0441,
        EnvMove.quiet, sets .SR1 0x0000]].map
      (fun env => look (fun t => t.result.event) (exec .poll (ready env)))) = [some 0, some 3, some 4, some 6] := by decide +kernel

/-- OperationsAreBounded, OperationsLeaveTheRestAlone, StatusReadsAreCounted, RegistersByOperation, PeripheralFrame,
OldBlockElementsHaveNoEffect: an operation other than INIT that ends in a next state, not refused. -/
theorem test_witness_runs :
    quietReady.resetAfter = none ∧ look (fun t => t.result.status) (exec .poll quietReady) = some .ok := by decide +kernel

/-- PortReachesTheSevenRegistersOnly: an address and a size the port refuses. -/
theorem test_witness_unreachable :
    (∀ r, ¬(2 = 2 ∧ 0x04 = offset r)) ∧ (∀ r, ¬(1 = 2 ∧ 0x00 = offset r)) := by
  constructor <;> intro r <;> cases r <;> decide

/-- ObedientPeripheralMeetsThePremises: with an error flag pending. -/
theorem test_witness_obedient :
    errorPending.move.react = none ∧
    errorPending.per.regs.sr1 &&& 0xDF00 &&& ~~~errorPending.found.regs.sr1 = 0 := by decide +kernel

/-- HostResetTouchesNoRegister. -/
theorem test_witness_reset_action : ({ quietReady with host := [.reset] } : State).host = .reset :: [] := rfl

/-- ResetAbandonsTheOperation: DECODE's two accesses; the reset may be due after any number of them. -/
theorem test_witness_abandoned :
    look (fun t => t.trace) (exec .decode { quietReady with resetAfter := none }) =
      some (quietReady.trace ++ [.read .SR1 0x0000, .read .SR2 0x0000]) := by decide +kernel

/-- ResetDuringACommandResetsTheBlock: a legal word, and an illegal one. -/
theorem test_witness_reset_during_command :
    ∀ w ∈ [(0x4000 : Command), 0xFFFF],
      ({ quietReady with host := [.command w Inputs.zero (some 1)] } : State).host =
        .command w Inputs.zero (some 1) :: [] := fun _ _ => rfl

/-- LifeCycle and StepKeepsTheInvariant: a state with the invariant, and a step of it that changes the block state. -/
theorem test_witness_invariant :
    (largestRise.presenting 0x1000).Inv ∧
    look (fun t => t.block.phase) (step (largestRise.presenting 0x1000)) = some .ready := by
  refine ⟨⟨fun h => ?_, ?_, fun a h => ?_⟩, ?_⟩
  · cases h
  · exact ⟨by decide, by decide, fun _ => rfl, fun h => (nomatch h), fun h => (nomatch h)⟩
  · cases h
  · decide +kernel

end Sys2Proof.Tests
end

/-! # The operations as things put together from a few parts

Every operation is a sequence of port accesses and changes of the result record, the block state and the sink. `PartOf`
says so once for every operation; what no part can break, no operation breaks (`PartOf.keeps`). -/

namespace Sys2Proof.Machine

/-! ### `PartOf` -/

/-- A result record in the middle of an operation: no event code 7, at most 8 iterations (rules R77, R163). -/
structure Result.InRange (r : Result) : Prop where
  event : r.event ≠ 7
  iters : r.iters.toNat ≤ 8

theorem Result.inRange_zero : Result.zero.InRange := ⟨by decide, by decide⟩

theorem Result.InRange.withIters {r : Result} (h : r.InRange) {n : Nat} (hn : n ≤ 8) :
    Result.InRange { r with iters := BitVec.ofNat 4 n } :=
  ⟨h.event, by simpa using (Nat.mod_le n 16).trans hn⟩

/-- The read-modify-write of rule R162: CR with the acknowledge bit set and every other bit as read. -/
def reassertAck : Op Unit := do
  let c ← regRead .CR
  regWrite .CR (c ||| ackMask)

/-- Everything the read-modify-write can do: the reset that is due at the read or at the write, or both accesses. -/
theorem reassertAck_cases (s : State) :
    (s.resetAfter = some 0 ∧ reassertAck s = .error .reset s) ∨
    ((s.access (.read .CR (s.answer .CR))).resetAfter = some 0 ∧
      reassertAck s = .error .reset (s.access (.read .CR (s.answer .CR)))) ∨
    reassertAck s =
      .ok () ((s.access (.read .CR (s.answer .CR))).access (.write .CR (s.answer .CR ||| ackMask))) := by
  unfold reassertAck
  obtain ⟨hs, h⟩ | ⟨-, h⟩ := regRead_cases .CR s
  · exact .inl ⟨hs, Op.bind_error h⟩
  · rw [Op.bind_ok h]
    obtain ⟨hs, hw⟩ | ⟨-, hw⟩ :=
      regWrite_cases .CR (s.answer .CR ||| ackMask) (s.access (.read .CR (s.answer .CR)))
    · exact .inr (.inl ⟨hs, hw⟩)
    · exact .inr (.inr hw)

/-- `x` is put together from things the operation `i` may do: block state is written by INIT alone, and what it writes
depends on the phase alone where the phase is concerned; the sink is POLL's; CR is written by INIT, or with the value
just read and `ACK` set; `DecodeGap` is raised by nothing. -/
inductive PartOf (i : Instr) : {α : Type} → Op α → Prop where
  | pure {α : Type} (a : α) : PartOf i (Pure.pure a : Op α)
  | bind {α β : Type} {x : Op α} {f : α → Op β} : PartOf i x → (∀ a, PartOf i (f a)) → PartOf i (x >>= f)
  /-- the state is looked at, but not its block state (rules R10, R13) -/
  | look {α : Type} {f : State → Op α} : (∀ s, PartOf i (f s)) → (∀ s g, f (s.withBlock g) = f s) →
      PartOf i ((get : Op State) >>= f)
  | read (r : Reg) : PartOf i (regRead r)
  | write (r : Reg) (v : Word) : (r = .CR → i = .init) → PartOf i (regWrite r v)
  | reassert : PartOf i reassertAck
  | setResult (f : Result → Result) : (∀ r : Result, r.InRange → (f r).InRange) → PartOf i (Machine.setResult f)
  | setBlock (f : Block → Block) : i = .init → (∀ b c : Block, b.phase = c.phase → (f b).phase = (f c).phase) →
      PartOf i (Machine.setBlock f)
  | emitSink (b : Byte) : i = .poll → PartOf i (Machine.emitSink b)
  | raise (f : SeuFault) : f ≠ .decodeGap → PartOf i (Machine.raise f)

section Operations

variable (i : Instr)

theorem errclrOp_partOf : PartOf i errclrOp := by
  refine .bind (.read _) fun v => ?_
  dsimp only
  split
  · exact .bind (.write _ _ (by simp)) fun _ => .setResult _ fun _ h => ⟨h.event, h.iters⟩
  · exact .setResult _ fun _ h => ⟨h.event, h.iters⟩

/-- No event has code 7 (rule R77). -/
theorem Event.code_ne_seven (ev : Event) : ev.code ≠ 7 := by cases ev <;> decide

theorem decodeOp_partOf : PartOf i decodeOp :=
  .bind (.read _) fun _ => .bind (.read _) fun _ =>
    .bind (.setResult _ fun _ h => ⟨Event.code_ne_seven _, h.iters⟩) fun _ => .pure _

theorem sendOp_partOf (b : Byte) : PartOf i (sendOp b) :=
  .bind (.write _ _ (by simp)) fun _ => .setResult _ fun _ h => ⟨h.event, h.iters⟩

theorem recvOp_partOf : PartOf i recvOp :=
  .bind (.read _) fun _ => .bind (.setResult _ fun _ h => ⟨h.event, h.iters⟩) fun _ => .pure _

theorem addrackOp_partOf : PartOf i addrackOp := by
  refine .bind (.read _) fun v => ?_
  split
  · exact .bind (.read _) fun _ => .pure _
  · exact .pure _

/-- The loop counts at most the writes made and those still allowed, so `iters` is at most 8 (rule R163). -/
theorem stopackLoop_partOf (left n : Nat) (h : n + left ≤ 8) : PartOf i (stopackLoop left n) := by
  induction left generalizing n with
  | zero =>
    refine .bind (.read _) fun v => .bind (.setResult _ fun _ hr => hr.withIters (by omega)) fun _ => ?_
    split
    · exact .raise _ (by decide)
    · exact .pure _
  | succ left ih =>
    refine .bind (.read _) fun v => ?_
    split
    · rw [← bind_assoc]
      exact .bind .reassert fun _ => ih (n + 1) (by omega)
    · exact .setResult _ fun _ hr => hr.withIters (by omega)

theorem stopackOp_partOf : PartOf i stopackOp := stopackLoop_partOf i _ _ (by decide)

theorem stopclrOp_partOf : PartOf i stopclrOp := .bind (addrackOp_partOf i) fun _ => stopackOp_partOf i

theorem respondOp_partOf (first : Bool) : PartOf i (respondOp first) :=
  .look (fun _ => .bind (.setResult _ fun _ h => ⟨h.event, h.iters⟩) fun _ => sendOp_partOf i _) fun _ _ => rfl

theorem dispatchOp_partOf (ev : Event) : PartOf .poll (dispatchOp ev) := by
  cases ev with
  | absence => exact .pure _
  | receiverAddressMatched => exact .pure _
  | byteReceived => exact .bind (recvOp_partOf _) fun _ => .emitSink _ rfl
  | transmitterAddressMatched => exact respondOp_partOf _ true
  | byteTransmitted => exact respondOp_partOf _ false
  | byteTransmitting => exact respondOp_partOf _ false
  | stopDetected => exact stopclrOp_partOf _

theorem pollOp_partOf : PartOf .poll pollOp :=
  .bind (errclrOp_partOf _) fun _ => .bind (decodeOp_partOf _) fun _ => dispatchOp_partOf _

theorem reportTiming_partOf (t : TimingValues) : PartOf i (reportTiming t) :=
  .setResult _ fun _ h => ⟨h.event, h.iters⟩

/-- The frequency check raises no `DecodeGap` (rule R188). -/
theorem freqFault_ne_decodeGap {n : Nat} {f : SeuFault} (h : freqFault n = some f) : f ≠ .decodeGap := by
  obtain rfl | rfl := freqFault_some h <;> decide

theorem tcalcOp_partOf (m : BusMode) : PartOf i (tcalcOp m) := by
  refine .look (fun s => ?_) fun _ _ => rfl
  split
  case h_1 f hf => exact .raise f (freqFault_ne_decodeGap hf)
  case h_2 => exact reportTiming_partOf i _

theorem tapplyOp_partOf (trise : BitVec 6) (div : BitVec 12) (fs duty : Bool) :
    PartOf .init (tapplyOp trise div fs duty) :=
  .bind (.read _) fun _ => .bind (.write _ _ fun _ => rfl) fun _ => .bind (.write _ _ fun _ => rfl) fun _ =>
    .bind (.write _ _ fun _ => rfl) fun _ => .bind (.read _) fun _ => .bind (.write _ _ fun _ => rfl) fun _ =>
      .bind (.read _) fun _ => .write _ _ fun _ => rfl

theorem configureOp_partOf (t : TimingValues) (p : Inputs) (c : BitVec 32) : PartOf .init (configureOp t p c) :=
  .bind (.setBlock _ rfl fun _ _ h => h) fun _ => .bind (tapplyOp_partOf _ _ _ _) fun _ =>
    .bind (.setBlock _ rfl fun _ _ h => h) fun _ => .bind (.write _ _ fun _ => rfl) fun _ =>
      .setBlock _ rfl fun _ _ _ => rfl

theorem fatal_partOf {f : SeuFault} (h : f ≠ .decodeGap) : PartOf .init (fatal f) :=
  .bind (.setBlock _ rfl fun _ _ _ => rfl) fun _ => .raise f h

theorem initOp_partOf (m : BusMode) : PartOf .init (initOp m) := by
  refine .look (fun s => ?_) fun _ _ => rfl
  split
  case h_1 f hf => exact fatal_partOf (freqFault_ne_decodeGap hf)
  case h_2 =>
    refine .bind (reportTiming_partOf _ _) fun _ => ?_
    split
    · exact configureOp_partOf _ _ _
    · exact fatal_partOf (by decide)

end Operations

/-- The operation an accepted command runs is put together from what the command may do. -/
theorem Runs.partOf {i : Instr} {op : Op Unit} (h : Runs i op) : PartOf i op := by
  cases h with
  | init m => exact initOp_partOf m
  | poll => exact pollOp_partOf
  | tcalc m => exact tcalcOp_partOf _ m
  | decode => exact .bind (decodeOp_partOf _) fun _ => .pure _
  | errclr => exact errclrOp_partOf _
  | send b => exact sendOp_partOf _ b
  | recv => exact .bind (recvOp_partOf _) fun _ => .pure _
  | addrack => exact addrackOp_partOf _
  | stopack => exact stopackOp_partOf _
  | stopclr => exact stopclrOp_partOf _

/-! ### What no part breaks, no operation breaks -/

/-- The relation `R` between an earlier and a later state is kept by everything the operation `i` may do. -/
structure ClosedUnder (i : Instr) (R : State → State → Prop) : Prop where
  refl     : ∀ s, R s s
  trans    : ∀ s t u, R s t → R t u → R s u
  begun    : ∀ s : State, R s s.begun
  read     : ∀ (s : State) (r : Reg), R s (s.access (.read r (s.answer r)))
  write    : ∀ (s : State) (r : Reg) (v : Word), (r = .CR → i = .init) → R s (s.access (.write r v))
  reassert : ∀ s : State,
    R s ((s.access (.read .CR (s.answer .CR))).access (.write .CR (s.answer .CR ||| ackMask)))
  result   : ∀ (s : State) (f : Result → Result), (∀ r : Result, r.InRange → (f r).InRange) → R s (s.withResult f)
  block    : i = .init → ∀ (s : State) (f : Block → Block), R s (s.withBlock f)
  sink     : i = .poll → ∀ (s : State) (b : Byte), R s (s.emitted b)

theorem Op.final_ok {α : Type} {x : Op α} {s t : State} {a : α} (h : x s = .ok a t) : x.final s = t := by
  rw [Op.final, h]

theorem Op.final_error {α : Type} {x : Op α} {s t : State} {e : Stop} (h : x s = .error e t) : x.final s = t := by
  rw [Op.final, h]

theorem PartOf.keeps {i : Instr} {α : Type} {x : Op α} {R : State → State → Prop} (h : PartOf i x)
    (hR : ClosedUnder i R) : Op.Keeps R x := by
  induction h with
  | pure a => exact .pure hR.refl a
  | bind _ _ ihx ihf => exact .bind hR.trans ihx ihf
  | look _ _ ihf => exact .bind hR.trans hR.refl ihf
  | read r =>
    intro s
    obtain ⟨-, h⟩ | ⟨-, h⟩ := regRead_cases r s
    · rw [Op.final_error h]
      exact hR.refl s
    · rw [Op.final_ok h]
      exact hR.read s r
  | write r v hr =>
    intro s
    obtain ⟨-, h⟩ | ⟨-, h⟩ := regWrite_cases r v s
    · rw [Op.final_error h]
      exact hR.refl s
    · rw [Op.final_ok h]
      exact hR.write s r v hr
  | reassert =>
    intro s
    obtain ⟨-, h⟩ | ⟨-, h⟩ | h := reassertAck_cases s
    · rw [Op.final_error h]
      exact hR.refl s
    · rw [Op.final_error h]
      exact hR.read s .CR
    · rw [Op.final_ok h]
      exact hR.reassert s
  | setResult f hf => exact fun s => hR.result s f hf
  | setBlock f hi _ => exact fun s => hR.block hi s f
  | emitSink b hi =>
    intro s
    obtain ⟨-, h⟩ | ⟨-, h⟩ := emitSink_cases b s
    · rw [Op.final_error h]
      exact hR.refl s
    · rw [Op.final_ok h]
      exact hR.sink hi s b
  | raise f _ => exact hR.refl

/-- Why an operation stops: a fault that is not `DecodeGap`, or the reset input that is due (rules R188, R205). -/
theorem PartOf.stops {i : Instr} {α : Type} {x : Op α} (h : PartOf i x) {s t : State} {e : Stop}
    (hx : x s = .error e t) :
    (∃ f, f ≠ .decodeGap ∧ e = .raised f) ∨ (e = .reset ∧ t.resetAfter = some 0) := by
  induction h generalizing s t with
  | pure a => cases hx
  | @bind _ _ y f _ _ ihx ihf =>
    cases hy : y s with
    | ok a u => exact ihf a ((Op.bind_ok hy).symm.trans hx)
    | error e' u =>
      cases (Op.bind_error hy).symm.trans hx
      exact ihx hy
  | look _ _ ihf => exact ihf s hx
  | read r =>
    obtain ⟨hs, h⟩ | ⟨-, h⟩ := regRead_cases r s <;> cases h.symm.trans hx
    exact .inr ⟨rfl, hs⟩
  | write r v hr =>
    obtain ⟨hs, h⟩ | ⟨-, h⟩ := regWrite_cases r v s <;> cases h.symm.trans hx
    exact .inr ⟨rfl, hs⟩
  | reassert =>
    obtain ⟨hs, h⟩ | ⟨hs, h⟩ | h := reassertAck_cases s <;> cases h.symm.trans hx
    · exact .inr ⟨rfl, hs⟩
    · exact .inr ⟨rfl, hs⟩
  | setResult f hf => cases hx
  | setBlock f hi _ => cases hx
  | emitSink b hi =>
    obtain ⟨hs, h⟩ | ⟨-, h⟩ := emitSink_cases b s <;> cases h.symm.trans hx
    exact .inr ⟨rfl, hs⟩
  | raise f hf =>
    cases hx
    exact .inl ⟨f, hf, rfl⟩

/-! ### How a command ends -/

/-- How a command ends whose refusal, or whose operation, has left the state `u` (rules R190, R192, R205). -/
inductive CommandEnd (u : State) : State → Prop where
  | refused (r : Reason) : u.resetAfter = none → CommandEnd u (u.returning (Result.refusal r))
  | ok : u.resetAfter = none → CommandEnd u (u.returning { u.result with status := .ok, code := 0 })
  | fault (f : SeuFault) : f ≠ .decodeGap → u.resetAfter = none → CommandEnd u (u.returning (u.result.faulted f))
  | reset : u.resetAfter ≠ none → CommandEnd u u.hostReset

theorem CommandEnd.of_refusedFor (s : State) (r : Reason) : CommandEnd s (s.refusedFor r) := by
  cases h : s.resetAfter with
  | none => exact State.refusedFor_eq_returning h r ▸ .refused r h
  | some k => exact State.refusedFor_eq_hostReset h r ▸ .reset (by simp [h])

/-- Everything the end of an operation can be, in the state it leaves. -/
theorem PartOf.commandEnd {i : Instr} {op : Op Unit} (h : PartOf i op) {s t : State}
    (ht : concluded (op s) = .next t) : CommandEnd (op.final s) t := by
  cases hs : op s with
  | ok a u =>
    rw [hs] at ht
    cases ht
    rw [Op.final_ok hs]
    obtain ⟨hn, hu⟩ | ⟨hn, hu⟩ := u.ended_cases .ok 0
    · exact hu ▸ .ok hn
    · exact hu ▸ .reset hn
  | error e u =>
    rw [hs] at ht
    rw [Op.final_error hs]
    obtain ⟨f, hf, rfl⟩ | ⟨rfl, hu⟩ := h.stops hs <;> cases ht
    · obtain ⟨hn, hu⟩ | ⟨hn, hu⟩ := u.ended_cases .fault f.code
      · exact hu ▸ .fault f hf hn
      · exact hu ▸ .reset hn
    · exact .reset (by simp [hu])

/-- Everything a command can do: it ends where it began, or where its operation has left the state. -/
theorem exec_ends {i : Instr} {s t : State} (h : exec i s = .next t) :
    ∃ u, CommandEnd u t ∧ (u = s ∨ ∃ op, Runs i op ∧ u = op.final s.begun) := by
  obtain ⟨r, hr⟩ | ⟨op, hop, -, hrun⟩ := exec_cases i s
  · cases hr.symm.trans h
    exact ⟨s, .of_refusedFor s r, .inl rfl⟩
  · exact ⟨_, hop.partOf.commandEnd (hrun.symm.trans h), .inr ⟨op, hop, rfl⟩⟩

/-- A relation kept by everything the operation may do holds between a command's first state and the one it ends in,
but for the result record or the reset. -/
theorem exec_keeps {i : Instr} {s t : State} {R : State → State → Prop} (hR : ClosedUnder i R)
    (h : exec i s = .next t) : ∃ u, R s u ∧ CommandEnd u t := by
  obtain ⟨u, hu, rfl | ⟨op, hop, rfl⟩⟩ := exec_ends h
  · exact ⟨u, hR.refl u, hu⟩
  · exact ⟨_, hR.trans _ _ _ (hR.begun s) (hop.partOf.keeps hR _), hu⟩

end Sys2Proof.Machine

/-! # The frame of every operation, and the invariant -/

namespace Sys2Proof.Machine

/-! ### The frame of an operation (O39) -/

theorem SameSurroundings.refl (s : State) : SameSurroundings s s := ⟨rfl, rfl, rfl, rfl⟩

theorem SameSurroundings.trans {s t u : State} (h : SameSurroundings s t) (h' : SameSurroundings t u) :
    SameSurroundings s u where
  straps := h'.straps.trans h.straps
  host := h'.host.trans h.host
  resets := h'.resets.trans h.resets
  inputs := by
    rw [← h.inputs, ← h'.inputs]

theorem SameSurroundings.access (s : State) (a : Access) : SameSurroundings s (s.access a) :=
  ⟨rfl, rfl, rfl, s.access_inputs_cfg a⟩

/-- What the operation `i` leaves alone, whenever the host resets; and that no part of it arms or drops a reset. -/
structure Frame (i : Instr) (s t : State) : Prop where
  around     : SameSurroundings s t
  block      : i ≠ .init → t.block = s.block
  sink       : i ≠ .poll → t.sink = s.sink
  resetAfter : t.resetAfter = none ↔ s.resetAfter = none

theorem Frame.refl (i : Instr) (s : State) : Frame i s s := ⟨.refl s, fun _ => rfl, fun _ => rfl, .rfl⟩

theorem Frame.trans {i : Instr} {s t u : State} (h : Frame i s t) (h' : Frame i t u) : Frame i s u where
  around := h.around.trans h'.around
  block hi := (h'.block hi).trans (h.block hi)
  sink hi := (h'.sink hi).trans (h.sink hi)
  resetAfter := h'.resetAfter.trans h.resetAfter

theorem Frame.access (i : Instr) (s : State) (a : Access) : Frame i s (s.access a) :=
  ⟨.access s a, fun _ => rfl, fun _ => rfl, by simp⟩

theorem Frame.closedUnder (i : Instr) : ClosedUnder i (Frame i) where
  refl := .refl i
  trans _ _ _ := .trans
  begun s := ⟨⟨rfl, rfl, rfl, rfl⟩, fun _ => rfl, fun _ => rfl, .rfl⟩
  read s r := .access i s _
  write s r v _ := .access i s _
  reassert s := (Frame.access i s _).trans (.access i _ _)
  result s f _ := ⟨⟨rfl, rfl, rfl, rfl⟩, fun _ => rfl, fun _ => rfl, .rfl⟩
  block hi s f := ⟨⟨rfl, rfl, rfl, rfl⟩, fun h => absurd hi h, fun _ => rfl, .rfl⟩
  sink hi s b := ⟨⟨rfl, rfl, rfl, rfl⟩, fun _ => rfl, fun h => absurd hi h, by simp⟩

/-- With no reset asserted a command returns a record, on top of what its operation has left. -/
theorem CommandEnd.returning {u t : State} (h : CommandEnd u t) (hn : u.resetAfter = none) :
    ∃ r, t = u.returning r := by
  cases h with
  | refused r _ => exact ⟨_, rfl⟩
  | ok _ => exact ⟨_, rfl⟩
  | fault f _ _ => exact ⟨_, rfl⟩
  | reset h => exact absurd hn h

/-- Settles O39: the frame of every part of an operation is the operation's. -/
theorem operationsLeaveTheRestAlone : Obligations.OperationsLeaveTheRestAlone := by
  unfold Obligations.OperationsLeaveTheRestAlone
  intro i s t hn ht
  obtain ⟨u, hf, hu⟩ := exec_keeps (Frame.closedUnder i) ht
  obtain ⟨r, rfl⟩ := hu.returning (hf.resetAfter.2 hn)
  exact ⟨⟨hf.around.straps, hf.around.host, hf.around.resets, hf.around.inputs⟩, hf.block, hf.sink, rfl, rfl⟩

/-! ### The accesses of an operation (O41) -/

/-- The accesses the operation `i` may make: which registers it reads and writes (rules R20, R27, R181, R212). -/
def Permits (i : Instr) : Access → Prop
  | .write .CR _ => i = .init ∨ i = .stopack ∨ i = .stopclr ∨ i = .poll
  | .write .TRISE _ | .write .CCR _ | .write .OAR _ => i = .init
  | .write .SR1 _ => i = .errclr ∨ i = .poll
  | .write .SR2 _ => False
  | .write .DR _ => i = .poll ∨ ∃ b, i = .send b
  | .read .CR _ => i = .init ∨ i = .stopack ∨ i = .stopclr ∨ i = .poll
  | .read .TRISE _ | .read .CCR _ | .read .OAR _ => False
  | .read .SR1 _ => i = .errclr ∨ i = .decode ∨ i = .addrack ∨ i = .stopack ∨ i = .stopclr ∨ i = .poll
  | .read .SR2 _ => i = .decode ∨ i = .addrack ∨ i = .stopclr ∨ i = .poll
  | .read .DR _ => i = .recv ∨ i = .poll

/-- An access the rules allow at all, and to the operation `i`. -/
def OwnAccess (i : Instr) (a : Access) : Prop := a.Allowed ∧ Permits i a

section Accesses

variable {i : Instr} {a : Access}

theorem ErrclrAccess.own (h : ErrclrAccess a) (hi : i = .errclr ∨ i = .poll) : OwnAccess i a := by
  obtain ⟨ha, ⟨v, rfl⟩ | ⟨v, rfl⟩⟩ := h <;> obtain rfl | rfl := hi <;> exact ⟨ha, by simp [Permits]⟩

theorem StatusRead.own (h : StatusRead a) (hi : i = .decode ∨ i = .addrack ∨ i = .stopclr ∨ i = .poll) :
    OwnAccess i a := by
  obtain ⟨ha, ⟨v, rfl⟩ | ⟨v, rfl⟩⟩ := h
  · exact ⟨ha, by obtain rfl | rfl | rfl | rfl := hi <;> simp [Permits]⟩
  · exact ⟨ha, hi⟩

theorem StopackAccess.own (h : StopackAccess a) (hi : i = .stopack ∨ i = .stopclr ∨ i = .poll) : OwnAccess i a := by
  obtain ⟨ha, ⟨v, rfl⟩ | ⟨v, rfl⟩ | ⟨v, rfl⟩⟩ := h
  · exact ⟨ha, by obtain rfl | rfl | rfl := hi <;> simp [Permits]⟩
  · exact ⟨ha, .inr hi⟩
  · exact ⟨ha, .inr hi⟩

theorem StopclrAccess.own (h : StopclrAccess a) (hi : i = .stopclr ∨ i = .poll) : OwnAccess i a :=
  h.elim (fun h => h.own (.inr (.inr hi))) (fun h => h.own (.inr hi))

theorem SendAccess.own (h : SendAccess a) (hi : i = .poll ∨ ∃ b, i = .send b) : OwnAccess i a := by
  obtain ⟨ha, v, rfl⟩ := h
  exact ⟨ha, hi⟩

theorem RecvAccess.own (h : RecvAccess a) (hi : i = .recv ∨ i = .poll) : OwnAccess i a := by
  obtain ⟨ha, v, rfl⟩ := h
  exact ⟨ha, hi⟩

theorem PollAccess.own (h : PollAccess a) : OwnAccess .poll a := by
  obtain h | h | h | h := h
  · exact h.own (.inr rfl)
  · exact h.own (.inr rfl)
  · exact h.own (.inl rfl)
  · exact h.own (.inr rfl)

theorem InitAccess.own (h : InitAccess a) : OwnAccess .init a := by
  obtain ⟨ha, ⟨v, rfl⟩ | ⟨v, rfl⟩ | ⟨v, rfl⟩ | ⟨v, rfl⟩ | ⟨v, rfl⟩⟩ := h <;> exact ⟨ha, by simp [Permits]⟩

end Accesses

/-- No accepted operation makes more than 31 accesses (rule R178), and only its own. -/
theorem Runs.makes {i : Instr} {op : Op Unit} (h : Runs i op) : Op.Makes 31 (OwnAccess i) op := by
  cases h with
  | init m => exact ((initOp_makes m).imp fun _ => InitAccess.own).mono (by omega)
  | poll => exact pollOp_makes.imp fun _ => PollAccess.own
  | tcalc m => exact (tcalcOp_makes m _).mono (by omega)
  | decode => exact (decodeOp_makes.discard.imp fun _ h => h.own (.inl rfl)).mono (by omega)
  | errclr => exact (errclrOp_makes.imp fun _ h => h.own (.inl rfl)).mono (by omega)
  | send b => exact ((sendOp_makes b).imp fun _ h => h.own (.inr ⟨b, rfl⟩)).mono (by omega)
  | recv => exact (recvOp_makes.discard.imp fun _ h => h.own (.inl rfl)).mono (by omega)
  | addrack => exact (addrackOp_makes.imp fun _ h => h.own (.inr (.inl rfl))).mono (by omega)
  | stopack => exact (stopackOp_makes.imp fun _ h => h.own (.inl rfl)).mono (by omega)
  | stopclr => exact (stopclrOp_makes.imp fun _ h => h.own (.inl rfl)).mono (by omega)

/-- Neither returning a record nor the reset takes an access back. -/
theorem CommandEnd.trace {u t : State} (h : CommandEnd u t) : t.trace = u.trace := by
  cases h <;> rfl

/-- The accesses of every command, refused or run, abandoned or not. -/
theorem exec_trace {i : Instr} {s t : State} (h : exec i s = .next t) :
    ∃ l, t.trace = s.trace ++ l ∧ l.length ≤ 31 ∧ ∀ a ∈ l, OwnAccess i a := by
  obtain ⟨u, hu, rfl | ⟨op, hop, rfl⟩⟩ := exec_ends h <;> rw [hu.trace]
  · exact ⟨[], by simp⟩
  · exact hop.makes s.begun

/-- Settles O41: every access is one of an operation's own. -/
theorem registersByOperation : Obligations.RegistersByOperation := by
  unfold Obligations.RegistersByOperation
  intro i s t ht
  obtain ⟨l, hl, -, hm⟩ := exec_trace ht
  exact ⟨l, hl, fun a ha => (hm a ha).2⟩

/-! ### The invariant (O50, O51) -/

/-- The rise time and the divisor the calculator computes are positive, the divisor is at least 4 in Standard mode, where
duty is clear (rules R103 to R107). -/
theorem timingCalc_bounds (clk : Nat) (m : BusMode) :
    1 ≤ (timingCalc clk m).triseN ∧ 1 ≤ (timingCalc clk m).divN ∧
      ((timingCalc clk m).fs = false → 4 ≤ (timingCalc clk m).divN ∧ (timingCalc clk m).duty = false) := by
  cases m with
  | standard f =>
    exact ⟨Nat.le_add_left 1 _, le_trans (by decide) (le_max_left Config.stdDivMin _),
      fun _ => ⟨le_max_left Config.stdDivMin _, rfl⟩⟩
  | fast f d =>
    cases d <;> exact ⟨Nat.le_add_left 1 _, le_max_left Config.fastDivMin _, fun h => nomatch h⟩

/-- An own address keeps its bit 0 clear (rules R12, R87). -/
theorem ownAddress_getLsbD_zero (a : BitVec 7) : (ownAddress a).getLsbD 0 = false := by
  rw [ownAddress, BitVec.getLsbD_append]
  rfl

/-- What INIT stores when the calculator's values fit their fields (rules R107, R115). -/
theorem configuredBlock_configured (clk : Nat) (m : BusMode) (p : Inputs) (c : BitVec 32)
    (hfit : (timingCalc clk m).fits = true) : (configuredBlock (timingCalc clk m) p c).Configured := by
  obtain ⟨hrise, hdiv, hstd⟩ := timingCalc_bounds clk m
  obtain ⟨hrise', hdiv'⟩ := fits_iff.1 hfit
  have hr : (BitVec.ofNat 6 (timingCalc clk m).triseN).toNat = (timingCalc clk m).triseN := by
    simpa using Nat.mod_eq_of_lt hrise'
  have hd : (BitVec.ofNat 12 (timingCalc clk m).divN).toNat = (timingCalc clk m).divN := by
    simpa using Nat.mod_eq_of_lt hdiv'
  exact
    { risePositive := hr.symm ▸ hrise
      divPositive := hd.symm ▸ hdiv
      standardDivisor := fun h => hd.symm ▸ (hstd h).1
      standardDuty := fun h => (hstd h).2
      addressShifted := ownAddress_getLsbD_zero _ }

/-- INIT leaves phase `Ready` only with the parameters of a configured block (rules R113 to R115). -/
theorem initOp_configured (m : BusMode) {s : State} (hn : s.resetAfter = none)
    (hr : ((initOp m).final s).block.phase = .ready) : ((initOp m).final s).block.Configured := by
  have hrun := initOp_run m s
  cases hf : freqFault s.inputs.cfgFreqHz.toNat with
  | some f =>
    rw [Op.final_error (by simpa only [hf] using hrun)] at hr
    cases hr
  | none =>
    cases hfit : (timingCalc s.inputs.cfgClockHz.toNat m).fits with
    | false =>
      rw [Op.final_error (by simpa only [hf, hfit] using hrun)] at hr
      cases hr
    | true =>
      obtain ⟨c1, c2, c3, -, hc⟩ := configureOp_run (timingCalc s.inputs.cfgClockHz.toNat m) s.inputs
        s.straps.cyclesPerUs (s := s.withResult (timingCalc s.inputs.cfgClockHz.toNat m).report) hn
      rw [Op.final_ok (by simpa only [hf, hfit, hc] using hrun)]
      exact configuredBlock_configured _ m _ _ hfit

/-- The result record is kept in range by everything an operation may do. -/
theorem inRange_closedUnder (i : Instr) :
    ClosedUnder i fun s t => s.result.InRange → t.result.InRange where
  refl _ h := h
  trans _ _ _ h h' := h' ∘ h
  begun _ _ := Result.inRange_zero
  read _ _ h := h
  write _ _ _ _ h := h
  reassert _ h := h
  result _ _ hf h := hf _ h
  block _ _ _ h := h
  sink _ _ _ h := h

/-- The block an operation leaves is configured when it is ready, where the one it found was. -/
theorem Runs.configured {i : Instr} {op : Op Unit} (h : Runs i op) {s : State} (hn : s.resetAfter = none)
    (hs : s.block.phase = .ready → s.block.Configured) :
    (op.final s).block.phase = .ready → (op.final s).block.Configured := by
  by_cases hi : i = .init
  · subst hi
    cases h with
    | init m => exact initOp_configured m hn
  · rw [(h.partOf.keeps (Frame.closedUnder i) s).block hi]
    exact hs

/-! Every record a command can return is legal, when its operation left one in range (rules R76, R186, R190). -/

theorem Result.legal_zero : Result.zero.Legal := ⟨by decide, by decide, fun _ => rfl, nofun, nofun⟩

theorem Result.legal_refusal (r : Reason) : (Result.refusal r).Legal :=
  ⟨nofun, Nat.zero_le 8, nofun, fun _ => by cases r <;> decide, nofun⟩

theorem Result.InRange.legal_ok {r : Result} (h : r.InRange) : Result.Legal { r with status := .ok, code := 0 } :=
  ⟨h.event, h.iters, fun _ => rfl, nofun, nofun⟩

theorem Result.InRange.legal_faulted {r : Result} (h : r.InRange) {f : SeuFault} (hf : f ≠ .decodeGap) :
    (r.faulted f).Legal := by
  refine ⟨h.event, h.iters, nofun, nofun, fun _ => ?_⟩
  cases f with
  | decodeGap => exact absurd rfl hf
  | freqTooHigh => exact .inl rfl
  | freqZero => exact .inr (.inl rfl)
  | fieldOverflow => exact .inr (.inr (.inl rfl))
  | stopClearNonConvergence => exact .inr (.inr (.inr rfl))

/-- The reset leaves the invariant to the accesses already made (rules R35, R205). -/
theorem State.hostReset_inv {s : State} (h : ∀ a ∈ s.trace, a.Allowed) : s.hostReset.Inv :=
  ⟨nofun, Result.legal_zero, h⟩

/-- The end of a command keeps what the invariant needs of the state its operation left. -/
theorem CommandEnd.inv {u t : State} (h : CommandEnd u t)
    (hblock : u.resetAfter = none → u.block.phase = .ready → u.block.Configured) (hres : u.result.InRange)
    (hacc : ∀ a ∈ u.trace, a.Allowed) : t.Inv := by
  cases h with
  | refused r hn => exact ⟨hblock hn, Result.legal_refusal r, hacc⟩
  | ok hn => exact ⟨hblock hn, hres.legal_ok, hacc⟩
  | fault f hf hn => exact ⟨hblock hn, hres.legal_faulted hf, hacc⟩
  | reset _ => exact State.hostReset_inv hacc

/-- Every command keeps the invariant, refused or run, abandoned or not. -/
theorem exec_keeps_inv {i : Instr} {s t : State} (h : exec i s = .next t) (hs : s.Inv) : t.Inv := by
  have hres : s.result.InRange := ⟨hs.result.event, hs.result.iters⟩
  obtain ⟨u, hu, rfl | ⟨op, hop, rfl⟩⟩ := exec_ends h
  · exact hu.inv (fun _ => hs.configured) hres hs.accesses
  · refine hu.inv (fun hn => ?_) (hop.partOf.keeps (inRange_closedUnder i) _ Result.inRange_zero) ?_
    · have hn' : s.begun.resetAfter = none := (hop.partOf.keeps (Frame.closedUnder i) s.begun).resetAfter.1 hn
      exact hop.configured hn' hs.configured
    · obtain ⟨l, hl, -, hm⟩ := hop.makes s.begun
      rw [hl]
      intro a ha
      obtain ha | ha := List.mem_append.1 ha
      · exact hs.accesses a ha
      · exact (hm a ha).1

/-- Settles O50, by cases on the host's next action: nothing, the reset, a legal and an illegal word. -/
theorem stepKeepsTheInvariant : Obligations.StepKeepsTheInvariant := by
  unfold Obligations.StepKeepsTheInvariant
  intro s t hs ht
  unfold step at ht
  split at ht
  case h_1 =>
    cases ht
    exact hs
  case h_2 rest _ =>
    cases ht
    exact State.hostReset_inv hs.accesses
  case h_3 w inputs k rest _ =>
    have hp : (s.presented rest inputs k).Inv := ⟨hs.configured, hs.result, hs.accesses⟩
    split at ht
    · exact exec_keeps_inv ht hp
    · cases ht
      exact (CommandEnd.of_refusedFor _ _).inv (fun _ => hp.configured) ⟨hp.result.event, hp.result.iters⟩ hp.accesses

/-- Settles O51: the power-on state is unconfigured, its record all 0, its list of accesses empty. -/
theorem resetHasTheInvariant : Obligations.ResetHasTheInvariant := by
  unfold Obligations.ResetHasTheInvariant
  exact ⟨nofun, Result.legal_zero, nofun⟩

end Sys2Proof.Machine

/-! # The old block state, the step, and the power-on state -/

namespace Sys2Proof.Machine

/-! ### Two runs that differ in the block state only (O49) -/

/-- `t` is `s` but for block state elements other than the phase. -/
def OnlyBlockDiffers (s t : State) : Prop :=
  ∃ b : Block, b.phase = s.block.phase ∧ t = s.withBlock fun _ => b

/-- The same end of a part of an operation, in states that differ in the block state only. -/
inductive SameEnd {α : Type} : EStateM.Result Stop State α → EStateM.Result Stop State α → Prop where
  | ok (a : α) {s t : State} : OnlyBlockDiffers s t → SameEnd (.ok a s) (.ok a t)
  | error (e : Stop) {s t : State} : OnlyBlockDiffers s t → SameEnd (.error e s) (.error e t)

/-- From states that differ in the block state only, `x` does the same. -/
def Op.IgnoresBlock {α : Type} (x : Op α) : Prop := ∀ s t, OnlyBlockDiffers s t → SameEnd (x s) (x t)

theorem Op.IgnoresBlock.bind {α β : Type} {x : Op α} {f : α → Op β} (hx : x.IgnoresBlock)
    (hf : ∀ a, (f a).IgnoresBlock) : (x >>= f).IgnoresBlock := by
  intro s t h
  have h' := hx s t h
  generalize hs : x s = r at h'
  generalize ht : x t = r' at h'
  cases h' with
  | ok a hst =>
    rw [Op.bind_ok hs, Op.bind_ok ht]
    exact hf a _ _ hst
  | error e hst =>
    rw [Op.bind_error hs, Op.bind_error ht]
    exact .error e hst

/-- A reset that is due comes first on both sides, or on neither. -/
theorem SameEnd.of_cases {α : Type} {x : Op α} {a : α} {s s' t t' : State} (h : OnlyBlockDiffers s t)
    (hs : (s.resetAfter = some 0 ∧ x s = .error .reset s) ∨ (s.resetAfter ≠ some 0 ∧ x s = .ok a s'))
    (ht : (t.resetAfter = some 0 ∧ x t = .error .reset t) ∨ (t.resetAfter ≠ some 0 ∧ x t = .ok a t'))
    (h' : OnlyBlockDiffers s' t') :
    SameEnd (x s) (x t) := by
  have hr : t.resetAfter = s.resetAfter := by
    obtain ⟨b, -, rfl⟩ := h
    rfl
  rw [hr] at ht
  obtain ⟨hd, hs⟩ | ⟨hd, hs⟩ := hs <;> obtain ⟨hd', ht⟩ | ⟨hd', ht⟩ := ht <;> rw [hs, ht]
  · exact .error _ h
  · exact absurd hd hd'
  · exact absurd hd' hd
  · exact .ok _ h'

theorem regRead_ignoresBlock (r : Reg) : (regRead r).IgnoresBlock := by
  rintro s _ ⟨b, hb, rfl⟩
  exact .of_cases ⟨b, hb, rfl⟩ (regRead_cases r s) (regRead_cases r (s.withBlock fun _ => b)) ⟨b, hb, rfl⟩

theorem regWrite_ignoresBlock (r : Reg) (v : Word) : (regWrite r v).IgnoresBlock := by
  rintro s _ ⟨b, hb, rfl⟩
  exact .of_cases ⟨b, hb, rfl⟩ (regWrite_cases r v s) (regWrite_cases r v (s.withBlock fun _ => b)) ⟨b, hb, rfl⟩

theorem emitSink_ignoresBlock (b : Byte) : (emitSink b).IgnoresBlock := by
  rintro s _ ⟨c, hc, rfl⟩
  exact .of_cases ⟨c, hc, rfl⟩ (emitSink_cases b s) (emitSink_cases b (s.withBlock fun _ => c)) ⟨c, hc, rfl⟩

/-- No operation reads an element of the block state (rules R10, R13). -/
theorem PartOf.ignoresBlock {i : Instr} {α : Type} {x : Op α} (h : PartOf i x) : x.IgnoresBlock := by
  induction h with
  | pure a => exact fun _ _ h => .ok a h
  | bind _ _ ihx ihf => exact .bind ihx ihf
  | @look _ f _ hf ihf =>
    rintro s _ ⟨b, hb, rfl⟩
    change SameEnd (f s s) (f (s.withBlock fun _ => b) (s.withBlock fun _ => b))
    rw [hf]
    exact ihf s s _ ⟨b, hb, rfl⟩
  | read r => exact regRead_ignoresBlock r
  | write r v _ => exact regWrite_ignoresBlock r v
  | reassert => exact (regRead_ignoresBlock _).bind fun _ => regWrite_ignoresBlock _ _
  | setResult f _ =>
    rintro s _ ⟨b, hb, rfl⟩
    exact .ok () ⟨b, hb, rfl⟩
  | setBlock f _ hf =>
    rintro s _ ⟨b, hb, rfl⟩
    exact .ok () ⟨f b, hf _ _ hb, rfl⟩
  | emitSink b _ => exact emitSink_ignoresBlock b
  | raise f _ => exact fun _ _ h => .error _ h

theorem OnlyBlockDiffers.ended {s t : State} (h : OnlyBlockDiffers s t) (st : Status) (code : BitVec 4) :
    OnlyBlockDiffers (s.ended st code) (t.ended st code) := by
  obtain ⟨b, hb, rfl⟩ := h
  cases hn : s.resetAfter with
  | none =>
    rw [State.ended_of_none hn, State.ended_of_none (s := s.withBlock _) hn]
    exact ⟨b, hb, rfl⟩
  | some k =>
    rw [State.ended_of_some hn, State.ended_of_some (s := s.withBlock _) hn]
    exact ⟨_, rfl, rfl⟩

theorem OnlyBlockDiffers.hostReset {s t : State} (h : OnlyBlockDiffers s t) :
    OnlyBlockDiffers s.hostReset t.hostReset := by
  obtain ⟨b, -, rfl⟩ := h
  exact ⟨_, rfl, rfl⟩

theorem OnlyBlockDiffers.begun {s t : State} (h : OnlyBlockDiffers s t) : OnlyBlockDiffers s.begun t.begun := by
  obtain ⟨b, hb, rfl⟩ := h
  exact ⟨b, hb, rfl⟩

/-- Two commands' outcomes: where the first has a next state, the second has one that differs in the block only. -/
def SameOutcome (x y : Host.Outcome State Fault Refusal) : Prop :=
  ∀ s, x = .next s → ∃ t, y = .next t ∧ OnlyBlockDiffers s t

theorem SameOutcome.next {s t : State} (h : OnlyBlockDiffers s t) : SameOutcome (.next s) (.next t) := by
  intro s' hs
  cases hs
  exact ⟨t, rfl, h⟩

theorem SameEnd.concluded {x y : OpResult Unit} (h : SameEnd x y) :
    SameOutcome (Machine.concluded x) (Machine.concluded y) := by
  cases h with
  | ok _ h => exact .next (h.ended .ok 0)
  | error e h =>
    cases e with
    | raised f => exact .next (h.ended .fault f.code)
    | reset => exact .next h.hostReset
    | unreachable a => exact fun _ hs => nomatch hs

theorem OnlyBlockDiffers.gate {s t : State} (h : OnlyBlockDiffers s t) (i : Instr) : gate i t = gate i s := by
  obtain ⟨b, hb, rfl⟩ := h
  simp only [Machine.gate, State.withBlock_straps, State.withBlock_block, hb]

theorem OnlyBlockDiffers.gated {s t : State} (h : OnlyBlockDiffers s t) (i : Instr) {op : Op Unit}
    (hop : op.IgnoresBlock) : SameOutcome (gated i op s) (gated i op t) := by
  unfold Machine.gated
  rw [h.gate i]
  cases Machine.gate i s with
  | some r => exact .next (h.begun.ended _ _)
  | none => exact (hop _ _ h.begun).concluded

theorem OnlyBlockDiffers.gatedMode {s t : State} (h : OnlyBlockDiffers s t) (i : Instr) {op : BusMode → Op Unit}
    (hop : ∀ m, (op m).IgnoresBlock) : SameOutcome (gatedMode i op s) (gatedMode i op t) := by
  have hin : t.inputs = s.inputs := by
    obtain ⟨b, -, rfl⟩ := h
    rfl
  unfold Machine.gatedMode
  rw [h.gate i, hin]
  cases Machine.gate i s with
  | some r => exact .next (h.begun.ended _ _)
  | none =>
    cases busMode s.inputs with
    | none => exact .next (h.begun.ended _ _)
    | some m => exact (hop m _ _ h.begun).concluded

/-- Every command is one operation behind its gate, INIT and TCALC one on the BusMode of the inputs (rule R190). -/
theorem exec_eq_gated (i : Instr) :
    (∃ op, Runs i op ∧ exec i = gated i op) ∨ (∃ op, (∀ m, Runs i (op m)) ∧ exec i = gatedMode i op) := by
  cases i with
  | init => exact .inr ⟨_, .init, rfl⟩
  | tcalc => exact .inr ⟨_, .tcalc, rfl⟩
  | poll => exact .inl ⟨_, .poll, rfl⟩
  | decode => exact .inl ⟨_, .decode, rfl⟩
  | errclr => exact .inl ⟨_, .errclr, rfl⟩
  | send b => exact .inl ⟨_, .send b, rfl⟩
  | recv => exact .inl ⟨_, .recv, rfl⟩
  | addrack => exact .inl ⟨_, .addrack, rfl⟩
  | stopack => exact .inl ⟨_, .stopack, rfl⟩
  | stopclr => exact .inl ⟨_, .stopclr, rfl⟩

theorem OnlyBlockDiffers.exec {s t : State} (h : OnlyBlockDiffers s t) (i : Instr) :
    SameOutcome (exec i s) (exec i t) := by
  obtain ⟨op, hop, he⟩ | ⟨op, hop, he⟩ := exec_eq_gated i <;> rw [he]
  · exact h.gated i hop.partOf.ignoresBlock
  · exact h.gatedMode i fun m => (hop m).partOf.ignoresBlock

/-- Settles O49: every operation ignores the block state but for the phase, at which its gate looks. -/
theorem oldBlockElementsHaveNoEffect : Obligations.OldBlockElementsHaveNoEffect := by
  unfold Obligations.OldBlockElementsHaveNoEffect
  intro i s t b hb ht
  have h : OnlyBlockDiffers s { s with block := b } := ⟨b, hb, rfl⟩
  obtain ⟨_, ht', c, hc, rfl⟩ := h.exec i t ht
  exact ⟨_, ht', rfl, hc⟩

/-! ### A step (O7) -/

/-- The decoder reads back what the encoder wrote (rules R70 to R72). -/
theorem decodeWord_encode (i : Instr) : decodeWord (encode i) = .ok i := by
  cases i with
  | send b =>
    revert b
    decide
  | init | poll | tcalc | decode | errclr | recv | addrack | stopack | stopclr => rfl

/-- A legal word presented runs its operation (rules R18, R70). -/
theorem step_command {s : State} {w : Command} {inputs : Inputs} {k : Option Nat} {rest : List HostAction} {i : Instr}
    (hs : s.host = .command w inputs k :: rest) (hw : decodeWord w = .ok i) :
    step s = exec i (s.presented rest inputs k) := by
  simp only [step, hs, hw]

/-- With nothing presented the SEU is idle. -/
theorem step_idle {s : State} (hs : s.host = []) : step s = .next s := by
  simp only [step, hs]

/-- Putting an operation's word on the command port presents that word. -/
theorem withFetchWord_encode (s : State) (i : Instr) :
    s.withFetchWord 16 (encode i).toNat = s.presenting (encode i) := by
  rw [State.withFetchWord, Nat.mod_eq_of_lt (encode i).isLt, BitVec.ofNat_toNat, BitVec.setWidth_eq]

/-- Settles O7: `step` on a legal word, on a word made by `withFetchWord`, and on nothing. -/
theorem stepRunsTheDecodedCommand : Obligations.StepRunsTheDecodedCommand := by
  unfold Obligations.StepRunsTheDecodedCommand
  refine ⟨fun s w inputs k rest i hs hw => step_command hs hw, fun s i => ?_, fun s => step_idle⟩
  rw [withFetchWord_encode]
  exact step_command (s.presenting_host (encode i)) (decodeWord_encode i)

/-! ### The power-on state (O47) -/

/-- A command its gate refuses does nothing else. -/
theorem exec_of_gate {i : Instr} {s : State} {r : Reason} (h : gate i s = some r) :
    exec i s = .next (s.refusedFor r) := by
  obtain ⟨op, -, he⟩ | ⟨op, -, he⟩ := exec_eq_gated i
  · rw [he, gated, h]
    rfl
  · rw [he, gatedMode, h]
    rfl

/-- Every command ends in a next state. -/
theorem exec_next (i : Instr) (s : State) : ∃ t, exec i s = .next t := by
  obtain ⟨r, h⟩ | ⟨op, hop, -, h⟩ := exec_cases i s
  · exact ⟨_, h⟩
  · obtain ⟨t, -, ht⟩ | ⟨f, t, -, ht⟩ | ⟨t, -, ht⟩ := concluded_reachable hop.reachable s.begun <;>
      exact ⟨_, h.trans ht⟩

theorem State.ended_status_ne_refused (s : State) {st : Status} (h : st ≠ .refused) (code : BitVec 4) :
    (s.ended st code).result.status ≠ .refused := by
  obtain ⟨-, hs⟩ | ⟨-, hs⟩ := s.ended_cases st code <;> rw [hs]
  · exact h
  · nofun

/-- An operation that runs does not return a refusal (rule R192). -/
theorem concluded_status_ne_refused {x : OpResult Unit} {t : State} (h : concluded x = .next t) :
    t.result.status ≠ .refused := by
  obtain ⟨u, -, hx⟩ | ⟨f, u, -, hx⟩ | ⟨u, -, hx⟩ | ⟨a, u, -, hx⟩ := concluded_cases x <;> cases hx.symm.trans h
  · exact u.ended_status_ne_refused (st := .ok) nofun 0
  · exact u.ended_status_ne_refused (st := .fault) nofun f.code
  · nofun

/-- Past its gate an operation on a BusMode is refused for the spelling of the mode alone (rules R75, R190). -/
theorem gatedMode_refused_code {i : Instr} {op : BusMode → Op Unit} {s t : State} (hg : gate i s = none)
    (hn : s.resetAfter = none) (ht : gatedMode i op s = .next t) (hr : t.result.status = .refused) :
    t.result.code = 4 := by
  rw [gatedMode, hg] at ht
  cases hm : busMode s.inputs with
  | none =>
    rw [hm] at ht
    cases ht
    rw [State.refusedFor_eq_returning hn]
    rfl
  | some m =>
    rw [hm] at ht
    exact absurd hr (concluded_status_ne_refused ht)

/-- Settles O47: the gate at the power-on state, and the mode check that INIT and TCALC make after it. -/
theorem afterResetOnlyInitAndTcalcRun : Obligations.AfterResetOnlyInitAndTcalcRun := by
  unfold Obligations.AfterResetOnlyInitAndTcalcRun
  refine ⟨rfl, fun inputs i => ⟨fun hinit htcalc => ?_, fun hi => ?_⟩⟩
  · have hg : gate i { State.reset with inputs := inputs } = some .notReady := by
      cases i with
      | init => exact absurd rfl hinit
      | tcalc => exact absurd rfl htcalc
      | poll | decode | errclr | send | recv | addrack | stopack | stopclr => rfl
    rw [exec_of_gate hg, State.refusedFor_eq_returning rfl]
    rfl
  · obtain ⟨t, ht⟩ := exec_next i { State.reset with inputs := inputs }
    have hg : gate i { State.reset with inputs := inputs } = none := by obtain rfl | rfl := hi <;> rfl
    obtain ⟨op, hop⟩ : ∃ op, exec i = gatedMode i op := by obtain rfl | rfl := hi <;> exact ⟨_, rfl⟩
    exact ⟨t, ht, gatedMode_refused_code hg rfl (hop ▸ ht)⟩

end Sys2Proof.Machine

/-! # `ErrBits` -/

namespace Sys2Proof.Machine

/-! ### The mask and the order of `ErrBits` (O21) -/

/-- A register value shares a bit with a one-bit mask exactly when it has that bit. -/
theorem and_bitMask_eq_zero_iff (v : Word) {n : Nat} (hn : n < 16) : v &&& bitMask n = 0#16 ↔ v.getLsbD n = false := by
  have hmask : ∀ n < 16, bitMask n = BitVec.twoPow 16 n ∧ bitMask n ≠ 0#16 := by decide
  obtain ⟨hpow, hne⟩ := hmask n hn
  rw [hpow, BitVec.and_twoPow, ← hpow]
  cases v.getLsbD n
  · simp
  · simpa using hne

theorem errMask_eq : errMask = 0xDF00 := by decide

/-- A register value shares a bit with the mask exactly when one of the seven flags is set (rules R28, R80). -/
theorem and_errMask_eq_zero_iff (v : Word) :
    v &&& errMask = 0#16 ↔ v.getLsbD 8 = false ∧ v.getLsbD 9 = false ∧ v.getLsbD 10 = false ∧ v.getLsbD 11 = false ∧
      v.getLsbD 14 = false ∧ v.getLsbD 12 = false ∧ v.getLsbD 15 = false := by
  simp only [errMask, Config.layout, BitVec.and_or_distrib_left, BitVec.or_eq_zero_iff, and_assoc,
    and_bitMask_eq_zero_iff, Nat.reduceLT]

/-- Seven flags in a row, the first in bit 0. -/
def flagRow (a b c d e f g : Bool) : BitVec 7 :=
  BitVec.ofBool g ++ BitVec.ofBool f ++ BitVec.ofBool e ++ BitVec.ofBool d ++ BitVec.ofBool c ++ BitVec.ofBool b
    ++ BitVec.ofBool a

theorem flagRow_getLsbD : ∀ a b c d e f g : Bool,
    (flagRow a b c d e f g).getLsbD 0 = a ∧ (flagRow a b c d e f g).getLsbD 1 = b ∧
    (flagRow a b c d e f g).getLsbD 2 = c ∧ (flagRow a b c d e f g).getLsbD 3 = d ∧
    (flagRow a b c d e f g).getLsbD 4 = e ∧ (flagRow a b c d e f g).getLsbD 5 = f ∧
    (flagRow a b c d e f g).getLsbD 6 = g := by decide

theorem flagRow_eq_zero_iff (a b c d e f g : Bool) : flagRow a b c d e f g = 0 ↔
    a = false ∧ b = false ∧ c = false ∧ d = false ∧ e = false ∧ f = false ∧ g = false := by
  constructor
  · intro h
    have hbits := flagRow_getLsbD a b c d e f g
    rw [h] at hbits
    obtain ⟨h0, h1, h2, h3, h4, h5, h6⟩ := hbits
    exact ⟨h0.symm, h1.symm, h2.symm, h3.symm, h4.symm, h5.symm, h6.symm⟩
  · rintro ⟨rfl, rfl, rfl, rfl, rfl, rfl, rfl⟩
    rfl

/-- `ErrBits` is the row of the seven flags in the source's listing order (rule R28). -/
theorem errBits_eq_flagRow (v : Word) :
    errBits v = flagRow (v.getLsbD 8) (v.getLsbD 9) (v.getLsbD 10) (v.getLsbD 11) (v.getLsbD 14) (v.getLsbD 12)
      (v.getLsbD 15) := rfl

/-- `ErrBits` is 0 exactly when no error flag is set (rule R28). -/
theorem errBits_eq_zero_iff (v : Word) : errBits v = 0 ↔ v &&& errMask = 0 := by
  rw [errBits_eq_flagRow, flagRow_eq_zero_iff]
  exact (and_errMask_eq_zero_iff v).symm

/-- Settles O21: the row of the seven flags, and the mask that finds them. -/
theorem errBitsOrder : Obligations.ErrBitsOrder := by
  unfold Obligations.ErrBitsOrder
  refine ⟨errMask_eq, fun v => ?_⟩
  obtain ⟨h0, h1, h2, h3, h4, h5, h6⟩ := flagRow_getLsbD (v.getLsbD 8) (v.getLsbD 9) (v.getLsbD 10) (v.getLsbD 11)
    (v.getLsbD 14) (v.getLsbD 12) (v.getLsbD 15)
  exact ⟨h0, h1, h2, h3, h4, h5, h6, errMask_eq ▸ errBits_eq_zero_iff v⟩

end Sys2Proof.Machine

/-! # The peripheral in a silent environment -/

namespace Sys2Proof.Machine

/-! ### Bits of register values -/

/-- `x &&& ~~~y` is 0 when `x` has no bit that `y` has not. -/
theorem and_not_eq_zero_iff {w : Nat} (x y : BitVec w) :
    x &&& ~~~y = 0#w ↔ ∀ n, x.getLsbD n = true → y.getLsbD n = true := by
  constructor
  · intro h n hx
    have hn := congrArg (·.getLsbD n) h
    simpa [hx, BitVec.lt_of_getLsbD hx] using hn
  · intro h
    refine BitVec.eq_of_getLsbD_eq fun n hn => ?_
    have := h n
    cases hx : x.getLsbD n <;> simp_all

theorem and_not_eq_zero_trans {w : Nat} {x y z : BitVec w} (h : x &&& ~~~y = 0#w) (h' : y &&& ~~~z = 0#w) :
    x &&& ~~~z = 0#w :=
  (and_not_eq_zero_iff x z).2 fun n hn => (and_not_eq_zero_iff y z).1 h' n ((and_not_eq_zero_iff x y).1 h n hn)

theorem and_and_not_self {w : Nat} (x m : BitVec w) : x &&& m &&& ~~~x = 0#w := by
  rw [and_not_eq_zero_iff]
  intro n hn
  rw [BitVec.getLsbD_and, Bool.and_eq_true] at hn
  exact hn.1

theorem and_not_or_self {w : Nat} (x m : BitVec w) : x &&& ~~~(x ||| m) = 0#w := by
  rw [and_not_eq_zero_iff]
  intro n hn
  rw [BitVec.getLsbD_or, hn, Bool.true_or]

/-- Setting the bits of a mask does not show outside it. -/
theorem or_and_not_self {w : Nat} (x m : BitVec w) : (x ||| m) &&& ~~~m = x &&& ~~~m := by
  ext n hn
  cases hx : x[n] <;> simp [hx]

/-- Clearing bits that `k` has does not show beside `k`. -/
theorem and_or_of_or_eq_allOnes {w : Nat} {m k : BitVec w} (h : m ||| k = BitVec.allOnes w) (x : BitVec w) :
    x &&& m ||| k = x ||| k := by
  ext n hn
  have hb : (m[n] || k[n]) = true := by
    rw [← BitVec.getElem_or]
    simp [h]
  cases hm : m[n] with
  | true => simp [hm]
  | false => simp [hm, show k[n] = true by simpa [hm] using hb]

/-! ### What one access leaves alone in an obedient peripheral (O42) -/

/-- What an operation other than INIT leaves alone in an obedient peripheral that nothing else touches (rules R21, R48 to
R56). -/
structure PeriphFrame (i : Instr) (p q : Periph) : Prop where
  regs     : q.regs = { p.regs with cr := q.regs.cr, sr1 := q.regs.sr1 }
  crElse   : q.regs.cr &&& ~~~0x0400 = p.regs.cr &&& ~~~0x0400
  crKept   : crPE p.regs.cr = true → p.regs.cr &&& ~~~q.regs.cr = 0
  sr1Else  : q.regs.sr1 ||| 0xDF12 = p.regs.sr1 ||| 0xDF12
  sr1Falls : q.regs.sr1 &&& ~~~p.regs.sr1 = 0
  all      : (i = .recv ∨ i = .tcalc ∨ ∃ b, i = .send b) → q.regs = p.regs
  crSame   : i ≠ .stopack → i ≠ .stopclr → i ≠ .poll → q.regs.cr = p.regs.cr
  txSame   : i ≠ .poll → (∀ b, i ≠ .send b) → q.txByte = p.txByte

section

variable {i : Instr} {p q r : Periph}

/-- A change of the hidden elements, or of the byte to transmit where the operation transmits. -/
theorem PeriphFrame.of_regs (h : q.regs = p.regs) (htx : i ≠ .poll → (∀ b, i ≠ .send b) → q.txByte = p.txByte) :
    PeriphFrame i p q where
  regs := by rw [h]
  crElse := by rw [h]
  crKept _ := by
    rw [h]
    exact BitVec.and_not_self _
  sr1Else := by rw [h]
  sr1Falls := by
    rw [h]
    exact BitVec.and_not_self _
  all _ := h
  crSame _ _ _ := by rw [h]
  txSame := htx

/-- A write that leaves every bit of CR but `ACK` leaves `PE`. -/
theorem crPE_of_crElse {c d : Word} (h : d &&& ~~~0x0400 = c &&& ~~~0x0400) : crPE d = crPE c := by
  have hbit : (~~~0x0400 : Word).getLsbD 0 = true := by decide
  have hb : crPE (d &&& ~~~0x0400) = crPE (c &&& ~~~0x0400) := congrArg crPE h
  simpa only [crPE, Config.layout, BitVec.getLsbD_and, hbit, Bool.and_true] using hb

theorem PeriphFrame.trans (h : PeriphFrame i p q) (h' : PeriphFrame i q r) : PeriphFrame i p r where
  regs := by rw [h'.regs, h.regs]
  crElse := h'.crElse.trans h.crElse
  crKept hp := and_not_eq_zero_trans (h.crKept hp) (h'.crKept ((crPE_of_crElse h.crElse).trans hp))
  sr1Else := h'.sr1Else.trans h.sr1Else
  sr1Falls := and_not_eq_zero_trans h'.sr1Falls h.sr1Falls
  all hi := (h'.all hi).trans (h.all hi)
  crSame h1 h2 h3 := (h'.crSame h1 h2 h3).trans (h.crSame h1 h2 h3)
  txSame h1 h2 := (h'.txSame h1 h2).trans (h.txSame h1 h2)

/-- Bits of SR1 go to 0, each an error flag, `ADDR` or `STOPF`. -/
theorem PeriphFrame.of_sr1 (m : Word) (hm : m ||| 0xDF12 = BitVec.allOnes 16)
    (hq : q.regs = { p.regs with sr1 := p.regs.sr1 &&& m }) (htx : q.txByte = p.txByte)
    (hi : ¬(i = .recv ∨ i = .tcalc ∨ ∃ b, i = .send b)) : PeriphFrame i p q where
  regs := by rw [hq]
  crElse := by rw [hq]
  crKept _ := by
    rw [hq]
    exact BitVec.and_not_self _
  sr1Else := by
    rw [hq]
    exact and_or_of_or_eq_allOnes hm _
  sr1Falls := by
    rw [hq]
    exact and_and_not_self _ m
  all h := absurd h hi
  crSame _ _ _ := by rw [hq]
  txSame _ _ := htx

/-- Re-asserting `ACK`, which a disabled peripheral clears instead (rule R54), changes no other bit of CR. -/
theorem crAfterWrite_reassert (c : Word) :
    crAfterWrite c (c ||| ackMask) = if crPE c then c ||| ackMask else c &&& ~~~ackMask := by
  have hpe : crPE (c ||| ackMask) = crPE c := crPE_of_crElse (or_and_not_self c ackMask)
  rw [crAfterWrite, hpe, Bool.and_self, or_and_not_self]

theorem PeriphFrame.of_reassert (hi : i = .stopack ∨ i = .stopclr ∨ i = .poll)
    (hq : q.regs = { p.regs with cr := crAfterWrite p.regs.cr (p.regs.cr ||| ackMask) })
    (htx : q.txByte = p.txByte) : PeriphFrame i p q where
  regs := by rw [hq]
  crElse := by
    rw [hq]
    simp only [crAfterWrite_reassert]
    split
    · exact or_and_not_self _ ackMask
    · exact (BitVec.and_assoc _ _ _).trans (congrArg _ (BitVec.and_self))
  crKept hp := by
    rw [hq]
    simp only [crAfterWrite_reassert, hp, if_true]
    exact and_not_or_self _ ackMask
  sr1Else := by rw [hq]
  sr1Falls := by
    rw [hq]
    exact BitVec.and_not_self _
  all h := by rcases hi with rfl | rfl | rfl <;> simp at h
  crSame h1 h2 h3 := by simp [h1, h2, h3] at hi
  txSame _ _ := htx

/-- A read the operation may make. -/
theorem readReaction_frame (r : Reg) (v : Word) (h : Permits i (.read r v)) : PeriphFrame i p (readReaction r p) := by
  cases r with
  | CR => exact .of_regs rfl fun _ _ => rfl
  | TRISE | CCR | OAR => exact h.elim
  | SR1 => exact .of_regs rfl fun _ _ => rfl
  | DR => exact .of_regs rfl fun _ _ => rfl
  | SR2 =>
    cases ha : p.armA with
    | false => exact .of_regs (by simp [readReaction, ha]) (by simp [readReaction, ha])
    | true =>
      refine .of_sr1 (~~~addrMask) (by decide) (by simp [readReaction, ha]) (by simp [readReaction, ha]) ?_
      rcases h with rfl | rfl | rfl | rfl <;> simp

/-- A write of a register other than CR that the operation may make. -/
theorem writeReaction_frame (r : Reg) (v : Word) (hcr : r ≠ .CR) (hinit : i ≠ .init) (h : Permits i (.write r v)) :
    PeriphFrame i p (writeReaction r v p) := by
  cases r with
  | CR => exact absurd rfl hcr
  | TRISE | CCR | OAR => exact absurd h hinit
  | SR2 => exact h.elim
  | DR => exact .of_regs rfl fun h1 h2 => (h.elim h1 fun ⟨b, hb⟩ => h2 b hb).elim
  | SR1 =>
    refine .of_sr1 (v ||| ~~~errMask) ?_ rfl rfl ?_
    · rw [BitVec.or_assoc, show ~~~errMask ||| 0xDF12 = BitVec.allOnes 16 by decide]
      exact BitVec.or_allOnes
    · rcases h with rfl | rfl <;> simp

/-- The write of CR that re-asserts `ACK`, which clears `STOPF` where that is armed (rules R52, R162). -/
theorem writeReaction_reassert_frame (hi : i = .stopack ∨ i = .stopclr ∨ i = .poll) :
    PeriphFrame i p (writeReaction .CR (p.regs.cr ||| ackMask) p) := by
  cases ha : p.armS with
  | false => exact .of_reassert hi (by simp [writeReaction, ha]) (by simp [writeReaction, ha])
  | true =>
    refine PeriphFrame.trans
      (q := { p with regs := { p.regs with sr1 := p.regs.sr1 &&& ~~~stopfMask }, armS := false }) ?_ ?_
    · refine .of_sr1 (~~~stopfMask) (by decide) rfl rfl ?_
      rcases hi with rfl | rfl | rfl <;> simp
    · exact .of_reassert hi (by simp [writeReaction, ha]) (by simp [writeReaction, ha])

end

/-! ### Accesses in a silent environment -/

/-- An access in a silent environment gets the obedient reaction and the answer of the registers as they are. -/
theorem State.QuietFor.access {s : State} {n : Nat} (h : s.QuietFor (n + 1)) (a : Access) :
    (s.access a).per = reaction a s.per ∧ (s.access a).QuietFor n ∧ ∀ r, s.answer r = getReg s.per.regs r := by
  obtain ⟨rest, h⟩ := h
  have hm : s.move = EnvMove.quiet := by
    rw [State.move, h]
    rfl
  have hf : s.found = s.per := by
    rw [State.found, hm]
    rfl
  refine ⟨?_, ⟨rest, ?_⟩, fun r => ?_⟩
  · rw [State.access_per, State.left, hm, hf]
    rfl
  · rw [State.access_env, h]
    rfl
  · rw [State.answer, hf]

/-- From `s` to `t` the operation `i` has made some accesses, and a silent environment for those, and for `n` more, has
left in the peripheral what the operation leaves alone, and is silent for the `n` more. -/
def Silently (i : Instr) (s t : State) : Prop :=
  ∃ l, t.trace = s.trace ++ l ∧ ((∀ a ∈ l, Permits i a) → ∀ n, s.QuietFor (l.length + n) →
    PeriphFrame i s.per t.per ∧ t.QuietFor n)

/-- With no access, the peripheral and the environment are as they were. -/
theorem Silently.of_same {i : Instr} {s t : State} (ht : t.trace = s.trace) (hp : t.per = s.per)
    (he : t.env = s.env) : Silently i s t := by
  refine ⟨[], by simp [ht], fun _ n h => ⟨.of_regs (by rw [hp]) fun _ _ => by rw [hp], ?_⟩⟩
  rw [State.QuietFor, he]
  simpa [State.QuietFor] using h

theorem Silently.trans {i : Instr} {s t u : State} (h : Silently i s t) (h' : Silently i t u) : Silently i s u := by
  obtain ⟨l, hl, hq⟩ := h
  obtain ⟨l', hl', hq'⟩ := h'
  refine ⟨l ++ l', by rw [hl', hl, List.append_assoc], fun hp n hn => ?_⟩
  rw [List.length_append, Nat.add_assoc] at hn
  obtain ⟨hf, ht⟩ := hq (fun a ha => hp a (List.mem_append_left l' ha)) _ hn
  obtain ⟨hf', hu⟩ := hq' (fun a ha => hp a (List.mem_append_right l ha)) _ ht
  exact ⟨hf.trans hf', hu⟩

/-- One access, when the reaction to it leaves alone what the operation does. -/
theorem Silently.access {i : Instr} {s : State} {a : Access}
    (h : Permits i a → PeriphFrame i s.per (reaction a s.per)) : Silently i s (s.access a) := by
  refine ⟨[a], rfl, fun hp n hn => ?_⟩
  rw [List.length_singleton, Nat.add_comm] at hn
  obtain ⟨hper, hq, -⟩ := hn.access a
  exact ⟨hper ▸ h (hp a (List.mem_singleton_self a)), hq⟩

/-- The read-modify-write of CR: the value written is the one CR holds, with `ACK`. -/
theorem Silently.reassert {i : Instr} (hi : i ≠ .init) (s : State) :
    Silently i s ((s.access (.read .CR (s.answer .CR))).access (.write .CR (s.answer .CR ||| ackMask))) := by
  refine ⟨[.read .CR (s.answer .CR), .write .CR (s.answer .CR ||| ackMask)], by simp, fun hp n hn => ?_⟩
  rw [Nat.add_comm] at hn
  obtain ⟨hper, hq, hans⟩ := hn.access (.read .CR (s.answer .CR))
  obtain ⟨hper', hq', -⟩ := hq.access (.write .CR (s.answer .CR ||| ackMask))
  have hcr : s.answer .CR = s.per.regs.cr := hans .CR
  rw [hper', hper, hcr]
  exact ⟨writeReaction_reassert_frame ((hp (.read .CR (s.answer .CR)) (by simp)).resolve_left hi), hq'⟩

theorem Silently.closedUnder {i : Instr} (hi : i ≠ .init) : ClosedUnder i (Silently i) where
  refl _ := .of_same rfl rfl rfl
  trans _ _ _ := .trans
  begun _ := .of_same rfl rfl rfl
  read _ r := .access (readReaction_frame r _)
  write _ r v hr := .access (writeReaction_frame r v (fun h => hi (hr h)) hi)
  reassert := .reassert hi
  result _ _ _ := .of_same rfl rfl rfl
  block h := absurd h hi
  sink _ _ _ := .of_same rfl rfl rfl

/-- Neither returning a record nor the reset touches the peripheral (rule R206). -/
theorem CommandEnd.per {u t : State} (h : CommandEnd u t) : t.per = u.per := by
  cases h <;> rfl

/-- Settles O42: an operation makes at most 31 accesses, each of its own, and every one of them keeps the frame. -/
theorem peripheralFrame : Obligations.PeripheralFrame := by
  unfold Obligations.PeripheralFrame
  intro i s t hi _ hq ht
  obtain ⟨l, hl, hlen, hown⟩ := exec_trace ht
  obtain ⟨u, ⟨l', hl', hsilent⟩, hu⟩ := exec_keeps (Silently.closedUnder hi) ht
  obtain rfl : l = l' := List.append_cancel_left (hl.symm.trans (hu.trace.trans hl'))
  rw [show 31 = l.length + (31 - l.length) by omega] at hq
  obtain ⟨hf, -⟩ := hsilent (fun a ha => (hown a ha).2) _ hq
  rw [hu.per]
  exact ⟨hf.regs, hf.crElse, hf.crKept, hf.sr1Else, hf.sr1Falls, hf.all, hf.crSame, hf.txSame⟩

end Sys2Proof.Machine

/-! # The environment of the register port -/

namespace Sys2Proof.Machine

/-! ### A command that runs in a ready state -/

section

variable {s : State}

/-- In a ready state every operation but INIT passes the gate (rule R190). -/
theorem State.Ready.gate (hs : s.Ready) {i : Instr} (hi : i ≠ .init) : gate i s = none := by
  cases i with
  | init => exact absurd rfl hi
  | poll | tcalc | decode | errclr | send | recv | addrack | stopack | stopclr =>
    simp [Machine.gate, isComponent, phaseReason, hs.phase, hs.exposed]

/-- An operation that passes the gate of a ready state, makes the accesses `l` and fills in the result record with `f`
ends `Ok` (rules R18, R76). -/
theorem State.Ready.gated_run (hs : s.Ready) {i : Instr} (hi : i ≠ .init) {op : Op Unit} {l : List Access}
    {f : Result → Result} (hop : op s.begun = .ok () ((s.begun.performed l).withResult f)) :
    gated i op s = .next ((s.performed l).returning { f Result.zero with status := .ok, code := 0 }) := by
  rw [gated, hs.gate hi]
  dsimp only
  rw [runOp, hop, State.performed_begun, concluded,
    State.ended_begun_withResult (State.performed_resetAfter hs.noReset l)]

/-- DECODE in a ready state: its two reads as the port answers them, and their event (rule R136). -/
theorem State.Ready.exec_decode (hs : s.Ready) : ∃ v w : Word,
    s.answered [.read .SR1 v, .read .SR2 w] ∧
    exec .decode s = .next ((s.performed [.read .SR1 v, .read .SR2 w]).returning
      { Result.zero with event := (classify (snapshot v w)).code }) := by
  obtain ⟨v, w, hans, hrun⟩ := decodeOp_run (s := s.begun) hs.noReset
  have hgated := hs.gated_run (i := .decode) (by decide) (op := do let _ ← decodeOp) (Op.bind_ok hrun)
  exact ⟨v, w, (State.answered_begun s _).1 hans, hgated⟩

end

/-! ### What the bus engine shows (O28) -/

/-- The bus engine puts `v` into the register `r` just before an access (rule R46), and nothing else happens. -/
def EnvMove.showing (r : Reg) (v : Word) : EnvMove := { EnvMove.quiet with engine := [(r, v)] }

theorem getReg_setReg_same (f : RegFile) (r : Reg) (v : Word) : getReg (setReg f r v) r = v := by
  cases r <;> rfl

/-- A read of the register the bus engine has just changed is answered what the engine put there (rules R43, R46). -/
theorem State.answer_of_showing {s : State} {r : Reg} {v : Word} {rest : List EnvMove}
    (h : s.env = EnvMove.showing r v :: rest) : s.answer r = v := by
  have hm : s.move = EnvMove.showing r v := by rw [State.move, h]
  rw [State.answer, State.found, hm]
  exact getReg_setReg_same s.per.regs r v

/-- Settles O28: the bus engine shows the one word at the read of SR1 and the other at the read of SR2. -/
theorem decodeMaySeeAnySnapshot : Obligations.DecodeMaySeeAnySnapshot := by
  unfold Obligations.DecodeMaySeeAnySnapshot
  intro s v w hs
  have hready : State.Ready { s with env := [EnvMove.showing .SR1 v, EnvMove.showing .SR2 w] } :=
    ⟨hs.phase, hs.exposed, hs.noReset⟩
  obtain ⟨v', w', ⟨hv, hw, -⟩, ht⟩ := hready.exec_decode
  obtain rfl : v' = v := hv.trans (State.answer_of_showing rfl)
  obtain rfl : w' = w := hw.trans (State.answer_of_showing rfl)
  exact ⟨_, _, ht, by simp, rfl⟩

/-! ### What the obedient reaction leaves in the registers -/

/-- A bit that has been masked out is clear. -/
theorem getLsbD_and_not_bitMask (x : Word) {n : Nat} (hn : n < 16) : (x &&& ~~~bitMask n).getLsbD n = false := by
  rw [← and_bitMask_eq_zero_iff _ hn, BitVec.and_assoc, BitVec.not_and_self]
  exact BitVec.and_zero

/-- Masking bits none of which is an error flag does not show in the error flags. -/
theorem and_and_errMask {m : Word} (hm : m &&& errMask = errMask) (x : Word) :
    x &&& m &&& errMask = x &&& errMask := by
  rw [BitVec.and_assoc, hm]

/-- A read leaves every error flag as it is (rule R48). -/
theorem readReaction_errFlags (r : Reg) (p : Periph) :
    (readReaction r p).regs.sr1 &&& errMask = p.regs.sr1 &&& errMask := by
  cases r with
  | SR1 | CR | TRISE | CCR | OAR | DR => rfl
  | SR2 =>
    simp only [readReaction]
    split
    · exact and_and_errMask (by decide) p.regs.sr1
    · rfl

/-- A write of a register other than SR1 leaves every error flag as it is (rule R48). -/
theorem writeReaction_errFlags {r : Reg} (hr : r ≠ .SR1) (v : Word) (p : Periph) :
    (writeReaction r v p).regs.sr1 &&& errMask = p.regs.sr1 &&& errMask := by
  cases r with
  | SR1 => exact absurd rfl hr
  | OAR | SR2 | DR => rfl
  | TRISE | CCR =>
    simp only [writeReaction]
    split <;> rfl
  | CR =>
    simp only [writeReaction]
    split
    · exact and_and_errMask (by decide) p.regs.sr1
    · rfl

/-- A write of SR1 loses the error flags written 0 (rules R49, R50, R56). -/
theorem writeReaction_sr1 (v : Word) (p : Periph) :
    (writeReaction .SR1 v p).regs.sr1 = p.regs.sr1 &&& (v ||| ~~~errMask) := rfl

/-- A read of SR2 that finds the address-match clear armed clears `ADDR` (rule R51). -/
theorem readReaction_clears_addr {p : Periph} (hp : p.armA = true) :
    sr1ADDR (readReaction .SR2 p).regs.sr1 = false := by
  simp only [readReaction, hp, if_true]
  exact getLsbD_and_not_bitMask p.regs.sr1 (by decide)

/-- A write of CR that finds the stop-detected clear armed clears `STOPF` (rule R52). -/
theorem writeReaction_clears_stopf {p : Periph} (hp : p.armS = true) (v : Word) :
    sr1STOPF (writeReaction .CR v p).regs.sr1 = false := by
  simp only [writeReaction, hp, if_true]
  exact getLsbD_and_not_bitMask p.regs.sr1 (by decide)

/-- A write of CR leaves in it what `crAfterWrite` says, armed or not (rule R54). -/
theorem writeReaction_cr (v : Word) (p : Periph) :
    (writeReaction .CR v p).regs.cr = crAfterWrite p.regs.cr v := by
  simp only [writeReaction]
  split <;> rfl

/-- TRISE takes a written value only while the peripheral is disabled (rule R54). -/
theorem writeReaction_trise (v : Word) (p : Periph) :
    (writeReaction .TRISE v p).regs.trise = if crPE p.regs.cr then p.regs.trise else v := by
  simp only [writeReaction]
  split <;> rfl

/-- CCR takes a written value only while the peripheral is disabled (rule R54). -/
theorem writeReaction_ccr (v : Word) (p : Periph) :
    (writeReaction .CCR v p).regs.ccr = if crPE p.regs.cr then p.regs.ccr else v := by
  simp only [writeReaction]
  split <;> rfl

/-- No write of CR to a disabled peripheral leaves `ACK` set (rule R54). -/
theorem crAfterWrite_disabled {c : Word} (hc : crPE c = false) (v : Word) : crACK (crAfterWrite c v) = false := by
  rw [crAfterWrite, hc, Bool.false_and, if_neg Bool.false_ne_true]
  exact getLsbD_and_not_bitMask v (by decide)

/-! ### The words of a write of SR1

`x` is what SR1 holds, `v` the value written, `m` the mask of the flags a 0 clears; `x &&& (v ||| ~~~m)` is left. -/

section

variable {w : Nat} (x v m : BitVec w)

/-- No flag of the mask that is written 0 is left. -/
theorem clearWritten_and_not_written : x &&& (v ||| ~~~m) &&& m &&& ~~~v = 0#w := by
  rw [and_not_eq_zero_iff]
  intro n hn
  simp only [BitVec.getLsbD_and, BitVec.getLsbD_or, BitVec.getLsbD_not, Bool.and_eq_true] at hn
  obtain ⟨⟨-, hv⟩, hm⟩ := hn
  simpa [hm] using hv

/-- Every flag of the mask that is written 1 stays. -/
theorem written_and_not_clearWritten : x &&& m &&& v &&& ~~~(x &&& (v ||| ~~~m)) = 0#w := by
  rw [and_not_eq_zero_iff]
  intro n hn
  simp only [BitVec.getLsbD_and, Bool.and_eq_true] at hn
  obtain ⟨⟨hx, -⟩, hv⟩ := hn
  simp [hx, hv]

/-- Only flags of the mask that were set are lost. -/
theorem clearWritten_or_flags : x &&& (v ||| ~~~m) ||| (m &&& x) = x := by
  ext n hn
  cases hm : m[n] with
  | true => simpa [hm] using fun hx _ => hx
  | false => simp [hm]

/-- Nothing outside the mask is touched. -/
theorem clearWritten_and_not_mask : x &&& (v ||| ~~~m) &&& ~~~m = x &&& ~~~m := by
  ext n hn
  cases hm : m[n] with
  | true => simp [hm]
  | false => simp [hm]

end

/-! ### The obedient reaction meets the premises of rule R57 (O44) -/

/-- The peripheral reacts to the access as rules R48 to R56 say (log 7). -/
def PortEvent.Obedient (e : PortEvent) : Prop := e.left = reaction e.access e.found

/-- An access with no other reaction scripted is obedient. -/
theorem State.event_obedient {s : State} (h : s.move.react = none) (a : Access) : (s.event a).Obedient := by
  change s.left a = reaction a s.found
  rw [State.left, h]

section

variable {e : PortEvent}

/-- An obedient peripheral's reaction to a read. -/
theorem PortEvent.Obedient.left_of_read (h : e.Obedient) {r : Reg} {v : Word} (he : e.access = .read r v) :
    e.left = readReaction r e.found := by
  rw [h, he, reaction]

/-- An obedient peripheral's reaction to a write. -/
theorem PortEvent.Obedient.left_of_write (h : e.Obedient) {r : Reg} {v : Word} (he : e.access = .write r v) :
    e.left = writeReaction r v e.found := by
  rw [h, he, reaction]

theorem PortEvent.Obedient.clearByWriteZero (h : e.Obedient) : ClearByWriteZero e := fun v he => by
  rw [h.left_of_write he, writeReaction_sr1]
  exact clearWritten_and_not_written _ v errMask

/-- That the bus engine clears no error flag is no matter of the reaction, so it is asked for. -/
theorem PortEvent.Obedient.stickyErrors (h : e.Obedient)
    (hengine : e.previous.regs.sr1 &&& errMask &&& ~~~e.found.regs.sr1 = 0) : StickyErrors e := by
  refine ⟨hengine, fun r v he => ?_, fun r v he hr => ?_, fun v he => ⟨?_, ?_⟩⟩
  · rw [h.left_of_read he]
    exact readReaction_errFlags r e.found
  · rw [h.left_of_write he]
    exact writeReaction_errFlags hr v e.found
  · rw [h.left_of_write he, writeReaction_sr1]
    exact written_and_not_clearWritten _ v errMask
  · rw [h.clearByWriteZero v he]
    exact BitVec.zero_and

theorem PortEvent.Obedient.clearOfClearIsNoOp (h : e.Obedient) : ClearOfClearIsNoOp e := fun v he _ => by
  rw [h.left_of_write he]
  exact ⟨clearWritten_or_flags _ v errMask, rfl⟩

theorem PortEvent.Obedient.statusBitsIgnoreWrites (h : e.Obedient) : StatusBitsIgnoreWrites e := fun v he => by
  rw [h.left_of_write he]
  exact ⟨clearWritten_and_not_mask _ v errMask, rfl, rfl⟩

theorem PortEvent.Obedient.addrClearSeq (h : e.Obedient) : AddrClearSeq e := by
  refine ⟨fun v he => ?_, fun v he harm => ?_⟩
  · rw [h.left_of_read he, readReaction]
  · rw [h.left_of_read he]
    exact readReaction_clears_addr harm

theorem PortEvent.Obedient.stopClearSeq (h : e.Obedient) : StopClearSeq e := by
  refine ⟨fun v he => ?_, fun v he harm => ?_⟩
  · rw [h.left_of_read he, readReaction]
  · rw [h.left_of_write he]
    exact writeReaction_clears_stopf harm v

theorem PortEvent.Obedient.ackNeedsPE (h : e.Obedient) : AckNeedsPE e := fun v he hpe => by
  rw [h.left_of_write he, writeReaction_cr]
  exact crAfterWrite_disabled hpe v

theorem PortEvent.Obedient.timingNeedsDisabled (h : e.Obedient) : TimingNeedsDisabled e := by
  refine ⟨fun v he => ?_, fun v he => ?_⟩
  · rw [h.left_of_write he]
    exact writeReaction_trise v e.found
  · rw [h.left_of_write he]
    exact writeReaction_ccr v e.found

theorem PortEvent.Obedient.crReadsArePure (h : e.Obedient) : CrReadsArePure e := fun v he => by
  rw [h.left_of_read he, readReaction]

end

/-- Settles O44: the obedient reaction meets each premise, the first of them with what is asked of the bus engine. -/
theorem obedientPeripheralMeetsThePremises : Obligations.ObedientPeripheralMeetsThePremises := by
  unfold Obligations.ObedientPeripheralMeetsThePremises
  intro s a hreact hengine
  have h := State.event_obedient hreact a
  rw [← errMask_eq] at hengine
  exact ⟨h.stickyErrors hengine, h.clearByWriteZero, h.clearOfClearIsNoOp, h.statusBitsIgnoreWrites, h.addrClearSeq,
    h.stopClearSeq, h.ackNeedsPE, h.timingNeedsDisabled, h.crReadsArePure⟩

end Sys2Proof.Machine

/-! # The command word -/

namespace Sys2Proof

/-! ### Operations and the fields they are spelled with -/

/-- The fields of an operation's word are those it is spelled with, and they are well formed (rules R70 to R73). -/
theorem encode_format (i : Instr) : Laws.Format.Statement i := by
  cases i with
  | init => exact Laws.Format.init
  | poll => exact Laws.Format.poll
  | tcalc => exact Laws.Format.tcalc
  | decode => exact Laws.Format.decode
  | errclr => exact Laws.Format.errclr
  | send b => exact Laws.Format.send b
  | recv => exact Laws.Format.recv
  | addrack => exact Laws.Format.addrack
  | stopack => exact Laws.Format.stopack
  | stopclr => exact Laws.Format.stopclr

@[simp] theorem commandFields_encode (i : Instr) : commandFields (encode i) = i.fields := (encode_format i).1

theorem Instr.wellFormed (i : Instr) : i.WellFormed := (encode_format i).2

/-- A word is its three fields in a row (rule R70). -/
theorem commandFields_append (w : Command) :
    (commandFields w).op ++ (commandFields w).zero ++ (commandFields w).imm8 = w := by
  change w.extractLsb' 12 4 ++ w.extractLsb' 8 4 ++ w.extractLsb' 0 8 = w
  rw [BitVec.extractLsb'_append_extractLsb'_eq_extractLsb' (rfl : 12 = 8 + 4),
    BitVec.extractLsb'_append_extractLsb'_eq_extractLsb' (rfl : 8 = 0 + 8)]
  exact BitVec.extractLsb'_eq_self

theorem commandFields_injective {w v : Command} (h : commandFields w = commandFields v) : w = v := by
  rw [← commandFields_append w, h, commandFields_append]

/-- Every selector from 0x1 to 0xA, all other bits 0, spells the operation of a row of the opcode map (rule R72). -/
theorem exists_row_spelled : ∀ op : BitVec 4, 1 ≤ op.toNat ∧ op.toNat ≤ 10 →
    ∃ r ∈ opcodeTable, (r.mnemonic.instr 0).fields = ⟨op, 0, 0⟩ := by decide

/-- The three checks of rule R73 as one proposition. -/
theorem CommandFields.wf_iff (f : CommandFields) : f.wf = true ↔
    (1 ≤ f.op.toNat ∧ f.op.toNat ≤ 10) ∧ f.zero = 0 ∧ (f.op = 0x6 ∨ f.imm8 = 0) := by
  simp [wf, selectorDefined, reservedZero, immediateAllowed, and_assoc]

/-- Well-formed fields spell an operation (rules R72, R73). -/
theorem CommandFields.exists_instr {f : CommandFields} (h : f.wf = true) : ∃ i : Instr, i.fields = f := by
  obtain ⟨op, zero, imm8⟩ := f
  obtain ⟨hop, rfl, rfl | rfl⟩ := (wf_iff _).1 h
  · exact ⟨.send imm8, rfl⟩
  · obtain ⟨r, -, hr⟩ := exists_row_spelled op hop
    exact ⟨_, hr⟩

/-! ### What the decoder reads (O1, O2, O4, O5) -/

/-- Settles O1: the decoder reads back every encoded operation, the well-formed ones being all there are. -/
theorem decodeOfEncodeIsTheOperation : Obligations.DecodeOfEncodeIsTheOperation := by
  unfold Obligations.DecodeOfEncodeIsTheOperation
  exact fun i _ => Machine.decodeWord_encode i

/-- A word that selects the row of SEND has that row's selector and zeros; its byte is free (rules R70, R72). -/
theorem commandFields_of_selects_send {w : Command} (h : w &&& 0xFF00 = 0x6000) :
    commandFields w = ⟨0x6, 0, (commandFields w).imm8⟩ := by
  have kept (lo : Nat) (hm : (0xFF00 : Command).extractLsb' lo 4 = BitVec.allOnes 4) :
      w.extractLsb' lo 4 = (0x6000 : Command).extractLsb' lo 4 := by
    rw [← h, BitVec.extractLsb'_and, hm, BitVec.and_allOnes]
  rw [commandFields, kept 12 (by decide), kept 8 (by decide)]
  rfl

/-- The rows of the opcode map: a `C0` row compares the whole word with its operation's, and the one `C1` row is SEND's
(rules R70 to R72). -/
theorem opcodeRow_cases {r : OpcodeRow} (hr : r ∈ opcodeTable) :
    (r.mask = 0xFFFF ∧ ∀ b, encode (r.mnemonic.instr b) = r.pattern) ∨ r = ⟨.SEND, 0x6000, 0xFF00⟩ := by
  simp only [opcodeTable, List.mem_cons, List.not_mem_nil, or_false] at hr
  obtain rfl | rfl | rfl | rfl | rfl | rfl | rfl | rfl | rfl | rfl := hr
  on_goal 6 => exact .inr rfl
  all_goals exact .inl ⟨rfl, fun _ => rfl⟩

/-- A word that selects a row is the word of the row's operation with the word's byte (rules R71, R72). -/
theorem encode_of_selects {r : OpcodeRow} {w : Command} (hr : r ∈ opcodeTable) (h : r.selects w = true) :
    encode (r.mnemonic.instr (commandFields w).imm8) = w := by
  rw [OpcodeRow.selects, beq_iff_eq] at h
  obtain ⟨hmask, henc⟩ | rfl := opcodeRow_cases hr
  · rw [henc, ← h, hmask]
    exact BitVec.and_allOnes
  · apply commandFields_injective
    rw [commandFields_encode]
    exact (commandFields_of_selects_send h).symm

/-- A decoded operation is that of a row the word selects (rule R72). -/
theorem decodeWord_ok {w : Command} {i : Instr} (h : decodeWord w = .ok i) :
    ∃ r ∈ opcodeTable, r.selects w = true ∧ r.mnemonic.instr (commandFields w).imm8 = i := by
  unfold decodeWord at h
  cases hr : opcodeTable.find? (fun r => r.selects w) with
  | none => simp [hr] at h
  | some r =>
    rw [hr] at h
    have hw : r.selects w = true := List.find?_some (p := fun r : OpcodeRow => r.selects w) hr
    exact ⟨r, List.mem_of_find?_eq_some hr, hw, Except.ok.inj h⟩

/-- The decoder drops no bit: it reads an operation from that operation's word alone. -/
theorem decodeWord_eq_ok_iff {w : Command} {i : Instr} : decodeWord w = .ok i ↔ encode i = w := by
  constructor
  · intro h
    obtain ⟨r, hr, hw, rfl⟩ := decodeWord_ok h
    exact encode_of_selects hr hw
  · rintro rfl
    exact Machine.decodeWord_encode i

/-- Settles O2: the decoder reads `i` from the word of `i` alone, and every operation is well formed. -/
theorem encodeOfDecodeIsTheWord : Obligations.EncodeOfDecodeIsTheWord := by
  unfold Obligations.EncodeOfDecodeIsTheWord
  exact fun w i h => ⟨decodeWord_eq_ok_iff.1 h, i.wellFormed⟩

/-- No two rows of the opcode map have the same selector (rule R72). -/
theorem row_eq_of_selector : ∀ r ∈ opcodeTable, ∀ q ∈ opcodeTable,
    (r.mnemonic.instr 0).selector = (q.mnemonic.instr 0).selector → r = q := by decide

theorem Mnemonic.selector_instr (m : Mnemonic) (b : Byte) : (m.instr b).selector = (m.instr 0).selector := by
  cases m <;> rfl

/-- Settles O4: a word both rows select is the word of both their operations, so that these have one selector. -/
theorem opcodeRowsAreDisjoint : Obligations.OpcodeRowsAreDisjoint := by
  unfold Obligations.OpcodeRowsAreDisjoint
  intro w r hr q hq hrw hqw
  have h := congrArg (fun v => (commandFields v).op) ((encode_of_selects hr hrw).trans (encode_of_selects hq hqw).symm)
  simp only [commandFields_encode, Instr.fields] at h
  rw [Mnemonic.selector_instr, Mnemonic.selector_instr q.mnemonic] at h
  exact row_eq_of_selector r hr q hq h

/-- Settles O5: each of the ten words is the word of its operation. -/
theorem spelledWordsDecode : Obligations.SpelledWordsDecode := by
  unfold Obligations.SpelledWordsDecode
  exact ⟨Machine.decodeWord_encode .init, Machine.decodeWord_encode .poll, Machine.decodeWord_encode .tcalc,
    Machine.decodeWord_encode .decode, Machine.decodeWord_encode .errclr, Machine.decodeWord_encode (.send 0xA5),
    Machine.decodeWord_encode .recv, Machine.decodeWord_encode .addrack, Machine.decodeWord_encode .stopack,
    Machine.decodeWord_encode .stopclr⟩

/-! ### The illegal words (O3) -/

/-- The legal words are those whose fields are well formed (rules R72, R73). -/
theorem exists_decodeWord_ok_iff (w : Command) : (∃ i, decodeWord w = .ok i) ↔ (commandFields w).wf = true := by
  constructor
  · rintro ⟨i, h⟩
    rw [← decodeWord_eq_ok_iff.1 h, commandFields_encode]
    exact i.wellFormed
  · intro h
    obtain ⟨i, hi⟩ := CommandFields.exists_instr h
    exact ⟨i, decodeWord_eq_ok_iff.2 (commandFields_injective ((commandFields_encode i).trans hi))⟩

/-- The checks of rule R73 as numbers. -/
theorem commandFields_wf_iff (w : Command) : (commandFields w).wf = true ↔
    (1 ≤ w.toNat / 4096 ∧ w.toNat / 4096 ≤ 10) ∧ w.toNat / 256 % 16 = 0 ∧
      (w.toNat / 4096 = 6 ∨ w.toNat % 256 = 0) := by
  have hw := w.isLt
  have hop : (commandFields w).op.toNat = w.toNat / 4096 := by
    rw [commandFields, BitVec.extractLsb'_toNat, Nat.shiftRight_eq_div_pow]
    omega
  have hzero : (commandFields w).zero.toNat = w.toNat / 256 % 16 := by
    rw [commandFields, BitVec.extractLsb'_toNat, Nat.shiftRight_eq_div_pow]
  have himm : (commandFields w).imm8.toNat = w.toNat % 256 := by
    rw [commandFields, BitVec.extractLsb'_toNat, Nat.shiftRight_zero]
  rw [CommandFields.wf_iff, hop, ← BitVec.toNat_inj, ← BitVec.toNat_inj, ← BitVec.toNat_inj, hop, hzero, himm]
  rfl

/-- Settles O3: a word is illegal when its fields fail a check, and each check is a number. -/
theorem illegalWordsAreExactlyTheReservedOnes : Obligations.IllegalWordsAreExactlyTheReservedOnes := by
  unfold Obligations.IllegalWordsAreExactlyTheReservedOnes
  intro w
  have herr : (∃ e, decodeWord w = .error e) ↔ ¬ ∃ i, decodeWord w = .ok i := by
    cases decodeWord w <;> simp
  rw [herr, exists_decodeWord_ok_iff, commandFields_wf_iff]
  omega

end Sys2Proof

/-! # A step of every state, and the register port -/

namespace Sys2Proof.Machine

/-! ### A step (O6, O9) -/

/-- An illegal word presented is refused `IllegalCommand` (rule R73). -/
theorem step_illegal {s : State} {w : Command} {inputs : Inputs} {k : Option Nat} {rest : List HostAction} {e : Illegal}
    (hs : s.host = .command w inputs k :: rest) (hw : decodeWord w = .error e) :
    step s = .next ((s.presented rest inputs k).refusedFor .illegalCommand) := by
  simp only [step, hs, hw, refuse]

/-- The host's reset between two commands (rule R205). -/
theorem step_reset {s : State} {rest : List HostAction} (hs : s.host = .reset :: rest) :
    step s = .next (s.hostRest rest).hostReset := by
  simp only [step, hs]

/-- Settles O6: a reserved word is illegal, and a refusal with no reset asserted returns its record and no more. -/
theorem illegalCommandIsRefused : Obligations.IllegalCommandIsRefused := by
  unfold Obligations.IllegalCommandIsRefused
  intro s w inputs rest hs hw
  obtain ⟨e, he⟩ := (illegalWordsAreExactlyTheReservedOnes w).2 hw
  rw [step_illegal hs he, State.refusedFor_eq_returning rfl]
  rfl

/-- Settles O9, by cases on the host's next action: nothing, the reset, a legal and an illegal word. -/
theorem everyStepAnswersANextState : Obligations.EveryStepAnswersANextState := by
  unfold Obligations.EveryStepAnswersANextState
  intro s
  cases hs : s.host with
  | nil => exact ⟨s, step_idle hs⟩
  | cons a rest =>
    cases a with
    | reset => exact ⟨_, step_reset hs⟩
    | command w inputs k =>
      cases hw : decodeWord w with
      | ok i =>
        rw [step_command hs hw]
        exact exec_next i _
      | error e => exact ⟨_, step_illegal hs hw⟩

/-! ### The register port (O43) -/

/-- An access reaches a register only as one whole register at its own offset (rules R40, R42). -/
theorem reached_eq_some {a n : Nat} {r : Reg} (h : reached a n = some r) : n = Config.regBytes ∧ a = offset r := by
  unfold reached at h
  split at h
  · exact ⟨‹_›, (beq_iff_eq.1 (List.find?_some (p := fun r => offset r == a) h)).symm⟩
  · cases h

/-- An access that reaches no register is refused as unreachable and changes nothing (rule R42). -/
theorem memAccess_unreachable {a n : Nat} (h : reached a n = none) (v : Word) (s : State) :
    memRead a n s = .error (.unreachable a) s ∧ memWrite a n v s = .error (.unreachable a) s := by
  simp only [memRead, memWrite, h]
  exact ⟨rfl, rfl⟩

/-- Settles O43: the offsets, the accesses at them, and that any other access reaches no register. -/
theorem portReachesTheSevenRegistersOnly : Obligations.PortReachesTheSevenRegistersOnly := by
  unfold Obligations.PortReachesTheSevenRegistersOnly
  refine ⟨by decide, fun r v s hs => ⟨regRead_run r hs, regWrite_run r v hs⟩, fun a n v s h => ?_⟩
  have hnone : reached a n = none := Option.eq_none_iff_forall_ne_some.2 fun r hr => h r (reached_eq_some hr)
  exact memAccess_unreachable hnone v s

end Sys2Proof.Machine

/-! # The timing calculator, INIT and the life cycle -/

namespace Sys2Proof.Machine

/-! ### What the calculator computes (O14) -/

/-- The calculator in Standard mode (rules R102, R103). -/
theorem timingCalc_standard (clk f : Nat) :
    timingCalc clk (.standard f) =
      { triseN := clk / 1000000 + 1, divN := max 4 (clk / (2 * f)), fs := false, duty := false } := rfl

/-- The calculator in Fast mode with Ratio2to1 (rules R102, R104). -/
theorem timingCalc_fastTwoToOne (clk f : Nat) :
    timingCalc clk (.fast f .ratio2to1) =
      { triseN := clk / 1000000 * 300 / 1000 + 1, divN := max 1 (clk / (3 * f)), fs := true, duty := false } := rfl

/-- The calculator in Fast mode with Ratio16to9 (rules R102, R105). -/
theorem timingCalc_fastSixteenToNine (clk f : Nat) :
    timingCalc clk (.fast f .ratio16to9) =
      { triseN := clk / 1000000 * 300 / 1000 + 1, divN := max 1 (clk / (25 * f)), fs := true, duty := true } := rfl

/-- The rise time of Fast mode does not depend on the duty cycle (rules R104, R105). -/
theorem timingCalc_fast_triseN (clk f : Nat) (d : DutyCycle) :
    (timingCalc clk (.fast f d)).triseN = clk / 1000000 * 300 / 1000 + 1 := by cases d <;> rfl

/-- A divisor never exceeds its smallest value and half the clock, whatever the frequency (rule R107). -/
theorem max_div_mul_le {clk : Nat} (hclk : clk < 2 ^ 32) {k c : Nat} (hk : 2 ≤ k) (hc : c ≤ 4) (f : Nat) :
    max c (clk / (k * f)) ≤ 2 ^ 31 := by
  have hdiv : clk / (k * f) ≤ clk / 2 := calc
    clk / (k * f) = clk / k / f := (Nat.div_div_eq_div_mul clk k f).symm
    _ ≤ clk / k := Nat.div_le_self _ _
    _ ≤ clk / 2 := Nat.div_le_div_left hk (by decide)
  exact max_le (by omega) (by omega)

/-- What the calculator computes from a 32-bit clock is far from wrapping in 32 bits (rules R106, R107). -/
theorem timingCalc_le {clk : Nat} (hclk : clk < 2 ^ 32) (m : BusMode) :
    (timingCalc clk m).triseN ≤ 4295 ∧ (timingCalc clk m).divN ≤ 2 ^ 31 := by
  cases m with
  | standard f =>
    rw [timingCalc_standard]
    exact ⟨by dsimp only; omega, max_div_mul_le hclk (by decide) (by decide) f⟩
  | fast f d =>
    refine ⟨by rw [timingCalc_fast_triseN]; omega, ?_⟩
    cases d with
    | ratio2to1 => exact max_div_mul_le hclk (k := 3) (by decide) (by decide) f
    | ratio16to9 => exact max_div_mul_le hclk (k := 25) (by decide) (by decide) f

/-- Settles O14: the bounds hold in every mode, and the thresholds are those of the two rise-time formulas. -/
theorem calculatorBounds : Obligations.CalculatorBounds := by
  unfold Obligations.CalculatorBounds
  intro clk f hclk _ _
  refine ⟨fun m _ => ?_, ((timingCalc_bounds clk (.standard f)).2.2 rfl).1, ?_, fun d => ?_⟩
  · obtain ⟨hrise, hdiv, -⟩ := timingCalc_bounds clk m
    obtain ⟨hrise', hdiv'⟩ := timingCalc_le hclk m
    exact ⟨hrise, hrise', hdiv, hdiv'⟩
  · rw [timingCalc_standard]
    dsimp only
    omega
  · rw [timingCalc_fast_triseN]
    omega

/-- The result record holds the calculator's numbers themselves (rule R76). -/
theorem exists_report (clk : BitVec 32) (m : BusMode) (r : Result) :
    ∃ rise div : BitVec 32,
      rise.toNat = (timingCalc clk.toNat m).triseN ∧ div.toNat = (timingCalc clk.toNat m).divN ∧
      (timingCalc clk.toNat m).report r =
        { r with
          triseN := rise, divN := div, fs := (timingCalc clk.toNat m).fs, duty := (timingCalc clk.toNat m).duty } := by
  obtain ⟨hrise, hdiv⟩ := timingCalc_le clk.isLt m
  refine ⟨_, _, ?_, ?_, rfl⟩ <;> rw [BitVec.toNat_ofNat] <;> exact Nat.mod_eq_of_lt (by omega)

/-! ### The mode and the gate -/

theorem busMode_standard {i : Inputs} (hfast : i.cfgModeFast = false) (hduty : i.cfgModeDuty = false) :
    busMode i = some (.standard i.cfgFreqHz.toNat) := by
  simp only [busMode, hfast, hduty]

theorem busMode_fastTwoToOne {i : Inputs} (hfast : i.cfgModeFast = true) (hduty : i.cfgModeDuty = false) :
    busMode i = some (.fast i.cfgFreqHz.toNat .ratio2to1) := by
  simp only [busMode, hfast, hduty]

theorem busMode_fastSixteenToNine {i : Inputs} (hfast : i.cfgModeFast = true) (hduty : i.cfgModeDuty = true) :
    busMode i = some (.fast i.cfgFreqHz.toNat .ratio16to9) := by
  simp only [busMode, hfast, hduty]

/-- Every spelling of the mode ports but one is a BusMode (rule R75). -/
theorem exists_busMode {i : Inputs} (h : i.cfgModeFast = true ∨ i.cfgModeDuty = false) : ∃ m, busMode i = some m := by
  cases hfast : i.cfgModeFast with
  | false =>
    have hduty : i.cfgModeDuty = false := h.resolve_left (by simp [hfast])
    exact ⟨_, busMode_standard hfast hduty⟩
  | true =>
    cases hduty : i.cfgModeDuty with
    | false => exact ⟨_, busMode_fastTwoToOne hfast hduty⟩
    | true => exact ⟨_, busMode_fastSixteenToNine hfast hduty⟩

/-- INIT passes its gate in phase `Unconfigured` alone (rule R190). -/
theorem gate_init_eq_none_iff (s : State) : gate .init s = none ↔ s.block.phase = .unconfigured := by
  simp only [gate, isComponent, phaseReason]
  cases s.block.phase <;> simp

/-- INIT runs in phase `Unconfigured` on a spelled BusMode (rule R190). -/
theorem exec_init_run {s : State} {m : BusMode} (hp : s.block.phase = .unconfigured)
    (hm : busMode s.inputs = some m) : exec .init s = concluded (initOp m s.begun) := by
  change gatedMode .init initOp s = _
  rw [gatedMode, (gate_init_eq_none_iff s).2 hp, hm]
  rfl

/-- TCALC runs in every phase, when it is exposed, on a spelled BusMode (rule R190). -/
theorem exec_tcalc_run {s : State} {m : BusMode} (hx : s.straps.exposeComponentOps = true)
    (hm : busMode s.inputs = some m) : exec .tcalc s = concluded (tcalcOp m s.begun) := by
  have hg : gate .tcalc s = none := by simp [gate, hx, phaseReason]
  change gatedMode .tcalc tcalcOp s = _
  rw [gatedMode, hg, hm]
  rfl

/-! ### TCALC (O10 to O13) -/

/-- TCALC returns what the calculator computes, and changes nothing else (rule R101). -/
theorem exec_tcalc_of_freq {s : State} {m : BusMode} (hn : s.resetAfter = none)
    (hx : s.straps.exposeComponentOps = true) (hm : busMode s.inputs = some m)
    (h1 : 1 ≤ s.inputs.cfgFreqHz.toNat) (h2 : s.inputs.cfgFreqHz.toNat ≤ 400000) :
    ∃ rise div : BitVec 32,
      rise.toNat = (timingCalc s.inputs.cfgClockHz.toNat m).triseN ∧
      div.toNat = (timingCalc s.inputs.cfgClockHz.toNat m).divN ∧
      exec .tcalc s = .next (s.returning
        { Result.zero with
          triseN := rise, divN := div, fs := (timingCalc s.inputs.cfgClockHz.toNat m).fs
          duty := (timingCalc s.inputs.cfgClockHz.toNat m).duty }) := by
  obtain ⟨rise, div, hrise, hdiv, hreport⟩ := exists_report s.inputs.cfgClockHz m Result.zero
  refine ⟨rise, div, hrise, hdiv, ?_⟩
  have hend := State.ended_begun_withResult hn (timingCalc s.inputs.cfgClockHz.toNat m).report .ok 0
  rw [hreport] at hend
  rw [exec_tcalc_run hx hm, tcalcOp_run, State.begun_inputs, freqFault_none h1 h2]
  exact congrArg Host.Outcome.next hend

/-- Settles O10: the calculator's numbers in Standard mode. -/
theorem tcalcStandard : Obligations.TcalcStandard := by
  unfold Obligations.TcalcStandard
  intro s hn hx hfast hduty h1 h2
  simpa only [timingCalc_standard] using exec_tcalc_of_freq hn hx (busMode_standard hfast hduty) h1 h2

/-- Settles O11: the calculator's numbers in Fast mode with Ratio2to1. -/
theorem tcalcFastTwoToOne : Obligations.TcalcFastTwoToOne := by
  unfold Obligations.TcalcFastTwoToOne
  intro s hn hx hfast hduty h1 h2
  simpa only [timingCalc_fastTwoToOne] using
    exec_tcalc_of_freq hn hx (busMode_fastTwoToOne hfast hduty) h1 h2

/-- Settles O12: the calculator's numbers in Fast mode with Ratio16to9. -/
theorem tcalcFastSixteenToNine : Obligations.TcalcFastSixteenToNine := by
  unfold Obligations.TcalcFastSixteenToNine
  intro s hn hx hfast hduty h1 h2
  simpa only [timingCalc_fastSixteenToNine] using
    exec_tcalc_of_freq hn hx (busMode_fastSixteenToNine hfast hduty) h1 h2

/-- A frequency fault of TCALC: only the result record changes (rule R101). -/
theorem exec_tcalc_of_freqFault {s : State} {m : BusMode} {f : SeuFault} (hn : s.resetAfter = none)
    (hx : s.straps.exposeComponentOps = true) (hm : busMode s.inputs = some m)
    (hf : freqFault s.inputs.cfgFreqHz.toNat = some f) :
    exec .tcalc s = .next (s.returning (Result.zero.faulted f)) := by
  rw [exec_tcalc_run hx hm, tcalcOp_run, State.begun_inputs, hf]
  exact congrArg Host.Outcome.next (State.ended_begun_withResult hn id .fault f.code)

/-- Settles O13: the two faults of the frequency check. -/
theorem tcalcFrequencyFaults : Obligations.TcalcFrequencyFaults := by
  unfold Obligations.TcalcFrequencyFaults
  intro s hn hx hmode
  obtain ⟨m, hm⟩ := exists_busMode hmode
  refine ⟨fun h => ?_, fun h => ?_⟩
  · exact exec_tcalc_of_freqFault hn hx hm (freqFault_high h)
  · exact exec_tcalc_of_freqFault hn hx hm (h ▸ freqFault_zero)

/-! ### The three ways of INIT (O15 to O17) -/

section Init

variable {s : State} {m : BusMode}

/-- INIT with a frequency fault: no access, and only the phase changes (rule R114). -/
theorem initOp_of_freqFault {f : SeuFault} (hf : freqFault s.inputs.cfgFreqHz.toNat = some f) :
    initOp m s = .error (.raised f) (s.withBlock fun b => { b with phase := .failed }) := by
  rw [initOp_run, hf]

/-- INIT with values that do not fit: no access, and only the phase changes, with the values reported (rule R115). -/
theorem initOp_of_overflow (hf : freqFault s.inputs.cfgFreqHz.toNat = none)
    (hfit : (timingCalc s.inputs.cfgClockHz.toNat m).fits = false) :
    initOp m s = .error (.raised .fieldOverflow)
      ((s.withResult (timingCalc s.inputs.cfgClockHz.toNat m).report).withBlock
        fun b => { b with phase := .failed }) := by
  rw [initOp_run, hf]
  dsimp only
  rw [hfit]

/-- INIT with values that fit: the nine accesses, the values reported, the block configured (rules R108, R113). -/
theorem initOp_of_fits (hn : s.resetAfter = none) (hf : freqFault s.inputs.cfgFreqHz.toNat = none)
    (hfit : (timingCalc s.inputs.cfgClockHz.toNat m).fits = true) :
    let v := timingCalc s.inputs.cfgClockHz.toNat m
    ∃ c1 c2 c3,
      let l := initAccesses (.ofNat 6 v.triseN) (.ofNat 12 v.divN) v.fs v.duty s.inputs.cfgOwnAddr c1 c2 c3
      s.answered l ∧
      initOp m s = .ok () (((s.performed l).withResult v.report).withBlock
        fun _ => configuredBlock v s.inputs s.straps.cyclesPerUs) := by
  obtain ⟨c1, c2, c3, hans, hrun⟩ := configureOp_run (timingCalc s.inputs.cfgClockHz.toNat m) s.inputs
    s.straps.cyclesPerUs (s := s.withResult (timingCalc s.inputs.cfgClockHz.toNat m).report) hn
  refine ⟨c1, c2, c3, (State.answered_withResult _ _ _).1 hans, ?_⟩
  rw [initOp_run, hf]
  dsimp only
  rw [hfit]
  dsimp only
  rw [hrun, State.performed_withResult]

/-- The block state INIT leaves, unless the host resets it: configured, or failed with no other element changed. -/
theorem initOp_final_block (hn : s.resetAfter = none) :
    ((initOp m).final s).block =
      configuredBlock (timingCalc s.inputs.cfgClockHz.toNat m) s.inputs s.straps.cyclesPerUs ∨
    ((initOp m).final s).block = { s.block with phase := .failed } := by
  cases hf : freqFault s.inputs.cfgFreqHz.toNat with
  | some f => exact .inr (by rw [Op.final_error (initOp_of_freqFault hf), State.withBlock_block])
  | none =>
    cases hfit : (timingCalc s.inputs.cfgClockHz.toNat m).fits with
    | false => exact .inr (by rw [Op.final_error (initOp_of_overflow hf hfit)]; rfl)
    | true =>
      obtain ⟨c1, c2, c3, -, hrun⟩ := initOp_of_fits hn hf hfit
      exact .inl (by rw [Op.final_ok hrun, State.withBlock_block])

end Init

/-- What INIT reports and stores is what it returns and leaves, with no reset asserted (rules R76, R113). -/
theorem State.ended_begun_withResult_withBlock {s : State} (h : s.resetAfter = none) (f : Result → Result)
    (g : Block → Block) (st : Status) (c : BitVec 4) :
    ((s.begun.withResult f).withBlock g).ended st c =
      (s.withBlock g).returning { f Result.zero with status := st, code := c } :=
  State.ended_of_none (s := (s.begun.withResult f).withBlock g) h st c

/-- Settles O15: the calculator's numbers fit their fields, and no timeout wraps. -/
theorem initConfigures : Obligations.InitConfigures := by
  unfold Obligations.InitConfigures
  intro s m hp hn hm h1 h2 hrise hdiv
  obtain ⟨c1, c2, c3, hans, hrun⟩ := initOp_of_fits (s := s.begun) hn (freqFault_none h1 h2) (fits_true hrise hdiv)
  refine ⟨_, _, scaledTimeout s.inputs.cfgTStartUs s.straps.cyclesPerUs,
    scaledTimeout s.inputs.cfgTAddrUs s.straps.cyclesPerUs, scaledTimeout s.inputs.cfgTDataUs s.straps.cyclesPerUs,
    c1, c2, c3, ?_, ?_, scaledTimeout_toNat _ _, scaledTimeout_toNat _ _, scaledTimeout_toNat _ _,
    (State.answered_begun _ _).1 hans, ?_⟩
  · exact (BitVec.toNat_ofNat _ _).trans (Nat.mod_eq_of_lt hrise)
  · exact (BitVec.toNat_ofNat _ _).trans (Nat.mod_eq_of_lt hdiv)
  · rw [exec_init_run hp hm, hrun, BitVec.setWidth_ofNat_of_le_of_lt (by decide) hrise,
      BitVec.setWidth_ofNat_of_le_of_lt (by decide) hdiv, State.performed_begun]
    exact congrArg Host.Outcome.next
      (State.ended_begun_withResult_withBlock (State.performed_resetAfter hn _) _ _ .ok 0)

/-- A frequency fault of INIT: the phase is `Failed`, and nothing else but the result record changes (rule R114). -/
theorem exec_init_of_freqFault {s : State} {m : BusMode} {f : SeuFault} (hp : s.block.phase = .unconfigured)
    (hn : s.resetAfter = none) (hm : busMode s.inputs = some m)
    (hf : freqFault s.inputs.cfgFreqHz.toNat = some f) :
    exec .init s = .next ((s.withBlock fun b => { b with phase := .failed }).returning (Result.zero.faulted f)) := by
  rw [exec_init_run hp hm, initOp_of_freqFault (s := s.begun) hf]
  exact congrArg Host.Outcome.next (State.ended_begun_withResult_withBlock hn id _ .fault f.code)

/-- Settles O16: the two faults of the frequency check, before any access. -/
theorem initFrequencyFaults : Obligations.InitFrequencyFaults := by
  unfold Obligations.InitFrequencyFaults
  intro s hp hn hmode
  obtain ⟨m, hm⟩ := exists_busMode hmode
  refine ⟨fun h => ?_, fun h => ?_⟩
  · exact exec_init_of_freqFault hp hn hm (freqFault_high h)
  · exact exec_init_of_freqFault hp hn hm (h ▸ freqFault_zero)

/-- Settles O17: the fit check fails after the values have been reported and before any access. -/
theorem initFieldOverflow : Obligations.InitFieldOverflow := by
  unfold Obligations.InitFieldOverflow
  intro s m hp hn hm h1 h2 hbig
  obtain ⟨rise, div, hrise, hdiv, hreport⟩ := exists_report s.inputs.cfgClockHz m Result.zero
  refine ⟨rise, div, hrise, hdiv, ?_⟩
  rw [exec_init_run hp hm, initOp_of_overflow (s := s.begun) (freqFault_none h1 h2) (fits_false hbig)]
  have hend := State.ended_begun_withResult_withBlock hn (timingCalc s.inputs.cfgClockHz.toNat m).report
    (fun b => { b with phase := .failed }) .fault SeuFault.fieldOverflow.code
  rw [hreport] at hend
  exact congrArg Host.Outcome.next hend

/-! ### The life cycle (O48) -/

/-- A command ends with the block state its operation has left, or with the reset (rules R192, R205). -/
theorem CommandEnd.block {u t : State} (h : CommandEnd u t) :
    (u.resetAfter = none ∧ t.block = u.block) ∨ (t.resets = u.resets + 1 ∧ t.block.phase = .unconfigured) := by
  cases h with
  | refused r hn => exact .inl ⟨hn, rfl⟩
  | ok hn => exact .inl ⟨hn, rfl⟩
  | fault f _ hn => exact .inl ⟨hn, rfl⟩
  | reset _ => exact .inr ⟨rfl, rfl⟩

/-- How the block state changes over a command (rules R117, R187, R205): not at all, by the reset, or by INIT. -/
theorem exec_block {i : Instr} {s t : State} (h : exec i s = .next t) :
    t.block = s.block ∨ (t.resets = s.resets + 1 ∧ t.block.phase = .unconfigured) ∨
    (i = .init ∧ s.block.phase = .unconfigured ∧
      (t.block.phase = .ready ∨ t.block = { s.block with phase := .failed })) := by
  obtain ⟨r, hr⟩ | ⟨op, hop, hgate, hrun⟩ := exec_cases i s
  · cases hr.symm.trans h
    obtain ⟨-, hb⟩ | hreset := (CommandEnd.of_refusedFor s r).block
    · exact .inl hb
    · exact .inr (.inl hreset)
  · have hf := hop.partOf.keeps (Frame.closedUnder i) s.begun
    obtain ⟨hn, hb⟩ | ⟨hresets, hphase⟩ := (hop.partOf.commandEnd (hrun.symm.trans h)).block
    · by_cases hi : i = .init
      · subst hi
        obtain ⟨m⟩ := hop
        refine .inr (.inr ⟨rfl, (gate_init_eq_none_iff s).1 hgate, ?_⟩)
        rw [hb]
        obtain hready | hfailed := initOp_final_block (m := m) (hf.resetAfter.1 hn)
        · exact .inl (by rw [hready]; rfl)
        · exact .inr hfailed
      · exact .inl (hb.trans (hf.block hi))
    · exact .inr (.inl ⟨by rw [hresets, hf.around.resets]; rfl, hphase⟩)

/-- Settles O48, by cases on the host's next action: nothing, the reset, a legal and an illegal word. -/
theorem lifeCycle : Obligations.LifeCycle := by
  unfold Obligations.LifeCycle
  intro s t ht
  cases hs : s.host with
  | nil =>
    cases (step_idle hs).symm.trans ht
    exact .inl rfl
  | cons a rest =>
    cases a with
    | reset =>
      cases (step_reset hs).symm.trans ht
      exact .inr (.inl ⟨rfl, rfl⟩)
    | command w inputs k =>
      cases hw : decodeWord w with
      | ok i =>
        obtain hsame | hreset | ⟨rfl, hphase, hinit⟩ := exec_block ((step_command hs hw).symm.trans ht)
        · exact .inl hsame
        · exact .inr (.inl hreset)
        · exact .inr (.inr ⟨hphase, ⟨w, inputs, k, rest, rfl, hw⟩, hinit⟩)
      | error e =>
        cases (step_illegal hs hw).symm.trans ht
        obtain ⟨-, hb⟩ | hreset := (CommandEnd.of_refusedFor (s.presented rest inputs k) .illegalCommand).block
        · exact .inl hb
        · exact .inr (.inl hreset)

end Sys2Proof.Machine

/-! # ERRCLR -/

namespace Sys2Proof.Machine

/-! ### The run of ERRCLR (O20) -/

/-- The accesses of rule R126 with the mask of the seven flags as a number. -/
theorem errclrAccesses_eq (v : Word) :
    errclrAccesses v = if v &&& 0xDF00 = 0 then [Access.read .SR1 v]
      else [Access.read .SR1 v, Access.write .SR1 (v &&& ~~~0xDF00)] := by
  simp only [errclrAccesses, errBits_eq_zero_iff, errMask_eq]

theorem errclrAccesses_of_no_flag {v : Word} (h : errBits v = 0) : errclrAccesses v = [.read .SR1 v] :=
  if_pos h

theorem errclrAccesses_of_flag {v : Word} (h : errBits v ≠ 0) :
    errclrAccesses v = [.read .SR1 v, .write .SR1 (v &&& ~~~errMask)] :=
  if_neg h

/-- ERRCLR in a ready state: its accesses, the flags of the value read in `errs`, and nothing else (rule R126). -/
theorem State.Ready.exec_errclr {s : State} (hs : s.Ready) :
    exec .errclr s = .next ((s.performed (errclrAccesses (s.answer .SR1))).returning
      { Result.zero with errs := errBits (s.answer .SR1) }) := by
  obtain ⟨-, hrun⟩ := errclrOp_run (s := s.begun) hs.noReset
  exact hs.gated_run (i := .errclr) (by decide) hrun

/-- Settles O20: the word of ERRCLR's read is what the port answers, and the accesses are those of rule R126. -/
theorem errclrRuns : Obligations.ErrclrRuns := by
  unfold Obligations.ErrclrRuns
  intro s hs
  refine ⟨s.answer .SR1, ?_⟩
  rw [← errclrAccesses_eq]
  exact ⟨(errclrOp_run hs.noReset).1, hs.exec_errclr⟩

/-! ### What the premises of rule R57 say of the flags after an access -/

/-- A read of a register is answered what the last access left there, when the bus engine takes no step (rule R46). -/
theorem State.answer_of_engine_silent {s : State} (h : s.move.engine = []) (r : Reg) :
    s.answer r = getReg s.per.regs r := by
  rw [State.answer, State.found, h]
  rfl

/-- A value with the mask `m` cleared has a 0 wherever `m` has a 1, so the two masks together are `m` alone. -/
theorem and_and_not_masked {w : Nat} (x v m : BitVec w) : x &&& m &&& ~~~(v &&& ~~~m) = x &&& m := by
  ext n hn
  cases hm : m[n] with
  | true => simp [hm]
  | false => simp [hm]

/-- A write of SR1 with all seven flags 0 leaves none of them set (rule R49). -/
theorem ClearByWriteZero.errBits_left {s : State} {v : Word}
    (h : ClearByWriteZero (s.event (.write .SR1 (v &&& ~~~errMask)))) :
    errBits (s.left (.write .SR1 (v &&& ~~~errMask))).regs.sr1 = 0 := by
  rw [errBits_eq_zero_iff, ← and_and_not_masked _ v]
  exact h _ rfl

/-- A read of SR1 that shows no flag leaves none set (rule R48). -/
theorem StickyErrors.errBits_left {s : State}
    (h : StickyErrors (s.event (.read .SR1 (s.answer .SR1)))) (hflag : errBits (s.answer .SR1) = 0) :
    errBits (s.left (.read .SR1 (s.answer .SR1))).regs.sr1 = 0 := by
  obtain ⟨-, hread, -⟩ := h
  rw [errBits_eq_zero_iff] at hflag ⊢
  exact (hread _ _ rfl).trans hflag

/-! ### The flags after ERRCLR (O22, O23, O53) -/

/-- ERRCLR that finds a flag set reports the flags of its read and leaves none, when its write clears what it writes 0
(rules R49, R126). -/
theorem State.Ready.exec_errclr_clears {s : State} (hs : s.Ready) (hflag : errBits (s.answer .SR1) ≠ 0)
    (hclear : ClearByWriteZero ((s.access (.read .SR1 (s.answer .SR1))).event
      (.write .SR1 (s.answer .SR1 &&& ~~~0xDF00)))) :
    ∃ t, exec .errclr s = .next t ∧ t.result = { Result.zero with errs := errBits (s.answer .SR1) } ∧
      errBits t.per.regs.sr1 = 0 := by
  have hrun := hs.exec_errclr
  rw [errclrAccesses_of_flag hflag] at hrun
  rw [← errMask_eq] at hclear
  exact ⟨_, hrun, rfl, hclear.errBits_left⟩

/-- Settles O22: ERRCLR's write leaves no flag, and SR1 shows what was left. -/
theorem errclrClearsAllSeven : Obligations.ErrclrClearsAllSeven := by
  unfold Obligations.ErrclrClearsAllSeven
  intro s hs hflag hclear
  obtain ⟨t, hrun, -, hnone⟩ := hs.exec_errclr_clears hflag hclear
  refine ⟨t, hrun, hnone, fun hengine => ?_⟩
  rw [State.answer_of_engine_silent hengine]
  exact hnone

/-- Settles O23: the flags reported are those of the read, and no flag is left, whichever were set in between. -/
theorem lostErrorWindow : Obligations.LostErrorWindow := by
  unfold Obligations.LostErrorWindow
  intro s hs v s1 w hflag hclear
  obtain ⟨t, hrun, hresult, hnone⟩ := hs.exec_errclr_clears hflag hclear
  refine ⟨t, hrun, hresult, hnone, fun n _ hunread => ⟨?_, ?_⟩⟩
  · rw [hresult]
    exact hunread
  · rw [hnone]
    exact BitVec.getLsbD_zero

/-- Settles O53: with no flag shown the read is ERRCLR's one access, and it leaves no flag. -/
theorem errclrLeavesClearFlagsClear : Obligations.ErrclrLeavesClearFlagsClear := by
  unfold Obligations.ErrclrLeavesClearFlagsClear
  intro s hs hflag hsticky
  have hrun := hs.exec_errclr
  rw [errclrAccesses_of_no_flag hflag, hflag] at hrun
  have hnone := hsticky.errBits_left hflag
  refine ⟨_, hrun, rfl, rfl, hnone, fun hengine => ?_⟩
  rw [State.answer_of_engine_silent hengine]
  exact hnone

end Sys2Proof.Machine

/-! # DECODE -/

namespace Sys2Proof.Machine

/-- Settles O24: it is what DECODE does in a ready state. -/
theorem decodeRuns : Obligations.DecodeRuns := by
  unfold Obligations.DecodeRuns
  intro s hs
  exact hs.exec_decode

/-! ### The release of the address match (O26, O27) -/

/-- The bus engine changes no hidden element: an access finds armed what the last one left armed (rules R32, R46). -/
@[simp] theorem State.found_armA (s : State) : s.found.armA = s.per.armA := rfl

/-- A read of SR1 and then one of SR2, both as rule R51 says, leave `ADDR` clear: the first arms the clear, nothing
disarms it in between, and the second finds it armed. -/
theorem AddrClearSeq.addr_left {s : State} {v w : Word} (h : AddrClearSeq (s.event (.read .SR1 v)))
    (h' : AddrClearSeq ((s.access (.read .SR1 v)).event (.read .SR2 w))) :
    sr1ADDR (s.performed [.read .SR1 v, .read .SR2 w]).per.regs.sr1 = false := by
  obtain ⟨harms, -⟩ := h
  obtain ⟨-, hclears⟩ := h'
  have harmed : (s.access (.read .SR1 v)).found.armA = true := by
    rw [State.found_armA, State.access_per]
    exact harms v rfl
  exact hclears w rfl harmed

/-- DECODE reports the event of its two reads and leaves `ADDR` clear, when both reads are as rule R51 says. -/
theorem State.Ready.exec_decode_releases {s : State} (hs : s.Ready)
    (h : AddrClearSeq (s.event (.read .SR1 (s.answer .SR1))))
    (h' : AddrClearSeq ((s.access (.read .SR1 (s.answer .SR1))).event
      (.read .SR2 ((s.access (.read .SR1 (s.answer .SR1))).answer .SR2)))) :
    ∃ t, exec .decode s = .next t ∧
      t.result = { Result.zero with
        event := (classify (snapshot (s.answer .SR1) ((s.access (.read .SR1 (s.answer .SR1))).answer .SR2))).code } ∧
      sr1ADDR t.per.regs.sr1 = false := by
  obtain ⟨_, _, ⟨rfl, rfl, -⟩, hrun⟩ := hs.exec_decode
  exact ⟨_, hrun, rfl, h.addr_left h'⟩

/-- Settles O26: the event reported has no part in the release. -/
theorem decodeReleasesTheAddressMatch : Obligations.DecodeReleasesTheAddressMatch := by
  unfold Obligations.DecodeReleasesTheAddressMatch
  intro s hs h h'
  obtain ⟨t, hrun, -, haddr⟩ := hs.exec_decode_releases h h'
  exact ⟨t, hrun, haddr⟩

/-- With `TRA` set and `TXE`, `RXNE` and `STOPF` clear no rule of the precedence holds: the first wants a receiver, the
third `RXNE`, the sixth `STOPF` and the others `TXE` (rules R137, R141). -/
theorem classify_eq_absence {x : Snapshot} (htra : x.tra = true) (htxe : x.txe = false) (hrxne : x.rxne = false)
    (hstopf : x.stopf = false) : classify x = .absence := by
  simp [classify, htra, htxe, hrxne, hstopf]

/-- Settles O27: the snapshot classifies as the absence, and DECODE releases the address match all the same. -/
theorem addressMatchConsumedUnreported : Obligations.AddressMatchConsumedUnreported := by
  unfold Obligations.AddressMatchConsumedUnreported
  intro s hs v s1 w h h' _ _ htra htxe hrxne hstopf
  obtain ⟨t, hrun, hresult, haddr⟩ := hs.exec_decode_releases h h'
  refine ⟨t, hrun, ?_, haddr⟩
  rw [hresult, classify_eq_absence htra htxe hrxne hstopf]
  rfl

/-! ### The fixed precedence (O25) -/

/-- The outcome of the first rule of a list is that rule's event where its condition holds, and the outcome of the
rules after it where it does not (rule R137). -/
theorem find?_rule_cons {rules : List (Bool × Event × BitVec 3)} {later : Event}
    (h : (rules.find? (fun p => p.1)).map Prod.snd = some (later, later.code)) (c : Bool) (ev : Event) :
    (((c, ev, ev.code) :: rules).find? (fun p => p.1)).map Prod.snd =
      some (if c then ev else later, (if c then ev else later).code) := by
  cases c with
  | true => rfl
  | false => exact h

/-- Settles O25, rule by rule from the last one, whose condition always holds. -/
theorem classifyIsTheFixedPrecedence : Obligations.ClassifyIsTheFixedPrecedence := by
  unfold Obligations.ClassifyIsTheFixedPrecedence
  intro s1 s2 BUSY TRA ADDR BTF STOPF RXNE TXE rules
  refine ⟨?_, Event.code_ne_seven _⟩
  have stop := find?_rule_cons (rules := [(true, .absence, 0)]) rfl STOPF .stopDetected
  have transmitting := find?_rule_cons stop (TRA && BUSY && TXE) .byteTransmitting
  have transmitted := find?_rule_cons transmitting (TRA && BUSY && TXE && BTF) .byteTransmitted
  have received := find?_rule_cons transmitted (BUSY && RXNE) .byteReceived
  have transmitter := find?_rule_cons received (TRA && BUSY && TXE && ADDR) .transmitterAddressMatched
  exact find?_rule_cons transmitter (BUSY && ADDR && !TRA) .receiverAddressMatched

end Sys2Proof.Machine

/-! # SEND and RECV -/

namespace Sys2Proof.Machine

/-! ### The gating of the register-touching component operations -/

/-- Outside phase `Ready` a component operation other than TCALC is not ready (rule R190). -/
theorem phaseReason_eq_notReady {i : Instr} (hcomp : isComponent i = true) (htcalc : i ≠ .tcalc) {p : Phase}
    (hp : p ≠ .ready) : phaseReason i p = some .notReady := by
  cases i with
  | init | poll => exact absurd hcomp Bool.false_ne_true
  | tcalc => exact absurd rfl htcalc
  | decode | errclr | send | recv | addrack | stopack | stopclr =>
    cases p with
    | ready => exact absurd rfl hp
    | unconfigured | failed => rfl

/-- A component operation other than TCALC is gated as rule R190 says: hidden comes before not ready. -/
theorem gatedComponent {i : Instr} (hcomp : isComponent i = true) (htcalc : i ≠ .tcalc) : GatedComponent i := by
  intro s hn
  refine ⟨fun hhidden => ?_, fun hexposed hp => ?_⟩
  · have hg : gate i s = some .componentOpsHidden := by simp [gate, hcomp, hhidden]
    rw [exec_of_gate hg, State.refusedFor_eq_returning hn]
  · have hg : gate i s = some .notReady := by simp [gate, hexposed, phaseReason_eq_notReady hcomp htcalc hp]
    rw [exec_of_gate hg, State.refusedFor_eq_returning hn]

/-! ### The data register's byte -/

/-- The `DR` value SEND writes, as the concatenation of rule R151: bits [15:8] are 0. -/
theorem drValue_eq_append (b : Byte) : drValue b = (0 : BitVec 8) ++ b := by
  rw [drValue_eq]
  exact BitVec.setWidth_eq_append (by decide)

/-- The byte RECV reports is bits [7:0] of the value read (rule R152). -/
theorem drByte_eq_extractLsb' (v : Word) : drByte v = v.extractLsb' 0 8 := by
  rw [drByte_eq]
  exact BitVec.setWidth_eq_extractLsb' (by decide)

/-! ### The runs in a ready state (O29, O30) -/

/-- SEND in a ready state: its one write of DR, and `tx_req` (rule R151). -/
theorem State.Ready.exec_send {s : State} (hs : s.Ready) (b : Byte) :
    exec (.send b) s = .next ((s.performed [.write .DR (drValue b)]).returning
      { Result.zero with txReq := true }) :=
  hs.gated_run (i := .send b) (by nofun) (sendOp_run (s := s.begun) b hs.noReset)

/-- RECV in a ready state: its one read of DR, and the byte read (rule R152). -/
theorem State.Ready.exec_recv {s : State} (hs : s.Ready) :
    exec .recv s = .next ((s.performed [.read .DR (s.answer .DR)]).returning
      { Result.zero with rxByte := drByte (s.answer .DR), rxValid := true }) :=
  hs.gated_run (i := .recv) (by decide) (op := do let _ ← recvOp) (Op.bind_ok (recvOp_run (s := s.begun) hs.noReset))

/-- Settles O29: the word is SEND's own, and a ready state lets it make its one write. -/
theorem sendRuns : Obligations.SendRuns := by
  unfold Obligations.SendRuns
  intro b
  refine ⟨decodeWord_encode (.send b), gatedComponent rfl (by nofun), fun s hs => ?_⟩
  rw [← drValue_eq_append]
  exact hs.exec_send b

/-- Settles O30: the word of RECV's read is what the port answers, whatever the status bits are. -/
theorem recvRuns : Obligations.RecvRuns := by
  unfold Obligations.RecvRuns
  refine ⟨decodeWord_encode .recv, gatedComponent rfl (by decide), fun s hs => ⟨s.answer .DR, ⟨rfl, trivial⟩, ?_⟩⟩
  rw [← drByte_eq_extractLsb']
  exact hs.exec_recv

end Sys2Proof.Machine

/-! # ADDRACK, STOPACK and STOPCLR -/

namespace Sys2Proof.Machine

/-! ### The counts of STOPACK's accesses -/

section

variable (r : Reg) (p : Word × Word) (rounds : List (Word × Word)) (last : Word)

theorem stopackAccesses_cons :
    stopackAccesses (p :: rounds) last =
      .read .SR1 p.1 :: .read .CR p.2 :: .write .CR (p.2 ||| ackMask) :: stopackAccesses rounds last := rfl

/-- STOPACK reads SR1 once a round and once to end the loop, and CR once a round (rules R161, R163). -/
theorem readCount_stopackAccesses :
    readCount r (stopackAccesses rounds last) =
      (if .SR1 = r then rounds.length + 1 else 0) + (if .CR = r then rounds.length else 0) := by
  induction rounds with
  | nil => simp [stopackAccesses, readCount]
  | cons p rounds ih =>
    simp only [stopackAccesses_cons, readCount, ih, List.length_cons]
    split <;> split <;> omega

/-- STOPACK writes CR once a round, and nothing else (rules R161, R163). -/
theorem writeCount_stopackAccesses :
    writeCount r (stopackAccesses rounds last) = if .CR = r then rounds.length else 0 := by
  induction rounds with
  | nil => simp [stopackAccesses, writeCount]
  | cons p rounds ih =>
    simp only [stopackAccesses_cons, writeCount, ih, List.length_cons]
    split <;> omega

theorem length_stopackAccesses : (stopackAccesses rounds last).length = 3 * rounds.length + 1 := by
  induction rounds with
  | nil => rfl
  | cons p rounds ih =>
    simp only [stopackAccesses_cons, List.length_cons, ih]
    omega

end

/-! ### The runs in a ready state (O31, O32, O35) -/

/-- An operation that passes the gate of a ready state and ends as STOPACK's loop does, after the accesses `l` in all,
returns STOPACK's record (rules R18, R161, R163). -/
theorem State.Ready.gated_stopackEnd {s : State} (hs : s.Ready) {i : Instr} (hi : i ≠ .init) {op : Op Unit}
    {l : List Access} {n : Nat} {last : Word} (hop : op s.begun = stopackEnd n last (s.begun.performed l)) :
    gated i op s = .next ((s.performed l).returning (stopackResult Result.zero n last)) := by
  have hn := State.performed_resetAfter hs.noReset l
  rw [gated, hs.gate hi]
  dsimp only
  rw [runOp, hop, State.performed_begun, stopackEnd, stopackResult]
  cases sr1STOPF last with
  | false => exact congrArg _ (State.ended_begun_withResult hn _ .ok 0)
  | true => exact congrArg _ (State.ended_begun_withResult hn _ .fault _)

/-- STOPACK in a ready state does what the answers of the port make it: a run that they answer is the run it makes
(rules R161, R163). -/
theorem State.Ready.exec_stopack {s : State} (hs : s.Ready) {rounds : List (Word × Word)} {last : Word}
    (hrun : StopackRun rounds last) (hans : s.answered (stopackAccesses rounds last)) :
    exec .stopack s = .next ((s.performed (stopackAccesses rounds last)).returning
      (stopackResult Result.zero rounds.length last)) := by
  obtain ⟨hset, hlen, hend⟩ := hrun
  have hloop := stopackLoop_of_answered Config.stopClearMaxIter 0 (s := s.begun) hs.noReset rounds last hset hlen hend
    ((State.answered_begun s _).2 hans)
  rw [Nat.zero_add] at hloop
  exact hs.gated_stopackEnd (i := .stopack) (by decide) hloop

/-- Settles O31: the words of ADDRACK's reads are what the port answers; `ADDR` is bit 1 of SR1. -/
theorem addrackRuns : Obligations.AddrackRuns := by
  unfold Obligations.AddrackRuns
  intro s hs
  obtain ⟨v, w, hans, hop⟩ := addrackOp_run (s := s.begun) hs.noReset
  exact ⟨v, w, (State.answered_begun s _).1 hans, hs.gated_run (i := .addrack) (f := id) (by decide) hop⟩

/-- Settles O32: the port answers some run of STOPACK's loop, and that is the run it makes. -/
theorem stopackRuns : Obligations.StopackRuns := by
  unfold Obligations.StopackRuns
  intro s hs
  obtain ⟨rounds, last, hset, hlen, hend, hans, -⟩ := stopackLoop_run Config.stopClearMaxIter 0 hs.noReset
  have hrun : StopackRun rounds last := ⟨hset, hlen, hend⟩
  exact ⟨rounds, last, hrun, hans, hs.exec_stopack hrun hans⟩

/-- Settles O35: STOPCLR's accesses are answered one operation after the other, and STOPACK's end is its own. -/
theorem stopclrRuns : Obligations.StopclrRuns := by
  unfold Obligations.StopclrRuns
  intro s hs
  obtain ⟨v, w, rounds, last, hrun, hans, hop⟩ := stopclrOp_run (s := s.begun) hs.noReset
  exact ⟨v, w, rounds, last, hrun, (State.answered_begun s _).1 hans,
    hs.gated_stopackEnd (i := .stopclr) (by decide) hop⟩

/-! ### The bound on the rounds (O34) -/

/-- A ready state is ready again once accesses have been made and a record returned. -/
theorem State.Ready.performed_returning {s : State} (hs : s.Ready) (l : List Access) (r : Result) :
    ((s.performed l).returning r).Ready where
  phase := by rw [State.returning_block, State.performed_block, hs.phase]
  exposed := by rw [State.returning_straps, State.performed_straps, hs.exposed]
  noReset := rfl

/-- Settles O34: eight rounds and a ninth read that shows `STOPF` are a run of STOPACK, and the one it makes. -/
theorem stopackNonConvergence : Obligations.StopackNonConvergence := by
  unfold Obligations.StopackNonConvergence
  intro s rounds last hs hlen hans hset hlast
  have hexec := hs.exec_stopack (rounds := rounds) ⟨hset, hlen.le, fun h => absurd hlen h.ne⟩ hans
  have hresult : stopackResult Result.zero rounds.length last =
      { Result.zero with status := .fault, code := 5, iters := 8 } := by
    rw [stopackResult, if_pos hlast, hlen]
    rfl
  rw [hresult] at hexec
  refine ⟨hexec, ?_, ?_, ?_, ?_, fun t ht => ?_⟩
  · simp [readCount_stopackAccesses, hlen]
  · simp [readCount_stopackAccesses, hlen]
  · simp [writeCount_stopackAccesses, hlen]
  · rw [length_stopackAccesses, hlen]
  · cases hexec.symm.trans ht
    exact ⟨State.performed_block s _, hs.performed_returning _ _⟩

/-! ### Convergence (O54, O33) -/

/-- STOPACK whose first read shows `STOPF` clear ends there (rule R161). -/
theorem State.Ready.exec_stopack_of_clear {s : State} (hs : s.Ready) (hclear : sr1STOPF (s.answer .SR1) = false) :
    exec .stopack s = .next ((s.access (.read .SR1 (s.answer .SR1))).returning Result.zero) := by
  have hexec := hs.exec_stopack (rounds := []) ⟨nofun, Nat.zero_le 8, fun _ => hclear⟩ ⟨rfl, trivial⟩
  rwa [stopackResult, hclear] at hexec

/-- The bus engine changes no hidden element: an access finds armed what the last one left armed (rules R32, R46). -/
@[simp] theorem State.found_armS (s : State) : s.found.armS = s.per.armS := rfl

/-- A read of SR1, a read of CR and a write of CR, as rule R52 says and the read of CR pure, leave `STOPF` clear: the
first arms the clear, the second disarms nothing, and the third finds it armed. -/
theorem StopClearSeq.stopf_left {s : State} {v c w : Word} (hfirst : StopClearSeq (s.event (.read .SR1 v)))
    (hpure : CrReadsArePure ((s.access (.read .SR1 v)).event (.read .CR c)))
    (hwrite : StopClearSeq (((s.access (.read .SR1 v)).access (.read .CR c)).event (.write .CR w))) :
    sr1STOPF (s.performed [.read .SR1 v, .read .CR c, .write .CR w]).per.regs.sr1 = false := by
  obtain ⟨harms, -⟩ := hfirst
  obtain ⟨-, hclears⟩ := hwrite
  have hkept : (s.access (.read .SR1 v)).left (.read .CR c) = (s.access (.read .SR1 v)).found := hpure c rfl
  have harmed : ((s.access (.read .SR1 v)).access (.read .CR c)).found.armS = true := by
    rw [State.found_armS, State.access_per, hkept, State.found_armS, State.access_per]
    exact harms v rfl
  exact hclears w rfl harmed

/-- Settles O54: the write of CR leaves `STOPF` clear, the silent engine lets the next read show that, and so the four
accesses are a run of STOPACK. -/
theorem stopackConvergesInOneIteration : Obligations.StopackConvergesInOneIteration := by
  unfold Obligations.StopackConvergesInOneIteration
  intro s hs first s1 read s2 write s3
  refine ⟨hs.exec_stopack_of_clear, fun hset hfirst hpure hwrite hengine => ?_⟩
  have hlast : sr1STOPF (s3.answer .SR1) = false := by
    rw [State.answer_of_engine_silent hengine]
    exact hfirst.stopf_left hpure hwrite
  have hexec := hs.exec_stopack (rounds := [(s.answer .SR1, s1.answer .CR)]) (last := s3.answer .SR1)
    ⟨by simpa using hset, by simp, fun _ => hlast⟩ ⟨rfl, rfl, rfl, trivial⟩
  rw [stopackResult, hlast] at hexec
  exact ⟨hlast, hexec⟩

/-- The next access in a silent environment is made in the silent move. -/
theorem State.QuietFor.move_eq_quiet {s : State} {n : Nat} (h : s.QuietFor (n + 1)) : s.move = EnvMove.quiet := by
  obtain ⟨rest, henv⟩ := h
  rw [State.move, henv]
  rfl

theorem State.QuietFor.engine_silent {s : State} {n : Nat} (h : s.QuietFor (n + 1)) : s.move.engine = [] :=
  congrArg EnvMove.engine h.move_eq_quiet

theorem State.QuietFor.event_obedient {s : State} {n : Nat} (h : s.QuietFor (n + 1)) (a : Access) :
    (s.event a).Obedient :=
  State.event_obedient (congrArg EnvMove.react h.move_eq_quiet) a

/-- A read of SR1 in a silent environment leaves the registers as they were. -/
theorem State.QuietFor.regs_read_sr1 {s : State} {n : Nat} (h : s.QuietFor (n + 1)) (v : Word) :
    (s.access (.read .SR1 v)).per.regs = s.per.regs := by
  obtain ⟨hper, -, -⟩ := h.access (.read .SR1 v)
  rw [hper]
  rfl

/-- Settles O33: in a silent environment the premises of O54 hold, and the read that ends the loop, which showed `STOPF`
clear, leaves SR1 as it was. -/
theorem stopackConvergesInTheObedientPeripheral : Obligations.StopackConvergesInTheObedientPeripheral := by
  unfold Obligations.StopackConvergesInTheObedientPeripheral
  intro s hs hq
  obtain ⟨hclear, hset⟩ := stopackConvergesInOneIteration s hs
  obtain ⟨-, hq1, hanswer⟩ := hq.access (.read .SR1 (s.answer .SR1))
  have hsr1 : s.answer .SR1 = s.per.regs.sr1 := hanswer .SR1
  cases hstopf : sr1STOPF s.per.regs.sr1 with
  | false =>
    refine ⟨_, hclear (hsr1 ▸ hstopf), ?_, rfl⟩
    rw [State.returning_per, hq.regs_read_sr1, hstopf]
  | true =>
    obtain ⟨-, hq2, -⟩ := hq1.access (.read .CR ((s.access (.read .SR1 (s.answer .SR1))).answer .CR))
    obtain ⟨-, hq3, -⟩ := hq2.access (.write .CR ((s.access (.read .SR1 (s.answer .SR1))).answer .CR ||| 0x0400))
    obtain ⟨hlast, hexec⟩ := hset (hsr1 ▸ hstopf) (hq.event_obedient _).stopClearSeq
      (hq1.event_obedient _).crReadsArePure (hq2.event_obedient _).stopClearSeq hq3.engine_silent
    refine ⟨_, hexec, ?_, rfl⟩
    rw [State.returning_per, hq3.regs_read_sr1]
    rwa [State.answer_of_engine_silent hq3.engine_silent] at hlast

end Sys2Proof.Machine

/-! # POLL, and the number of accesses of every operation -/

namespace Sys2Proof.Machine

/-! ### How many accesses an operation makes (O38) -/

/-- The most accesses the operation can make (rules R113, R161, R178, R180). -/
def accessBound : Instr → Nat
  | .init => 9
  | .poll => 31
  | .stopclr => 27
  | .stopack => 25
  | .tcalc | .decode | .errclr | .send _ | .recv | .addrack => 2

theorem accessBound_le (i : Instr) : accessBound i ≤ 31 := by
  cases i <;> simp [accessBound]

/-- An accepted operation stays within its bound, wherever it stops. -/
theorem Runs.makes_bounded {i : Instr} {op : Op Unit} (h : Runs i op) :
    ∃ P, Op.Makes (accessBound i) P op := by
  cases h with
  | init m => exact ⟨_, initOp_makes m⟩
  | poll => exact ⟨_, pollOp_makes⟩
  | tcalc m => exact ⟨fun _ => True, (tcalcOp_makes m _).mono (Nat.zero_le 2)⟩
  | decode => exact ⟨_, decodeOp_makes.discard⟩
  | errclr => exact ⟨_, errclrOp_makes⟩
  | send b => exact ⟨_, (sendOp_makes b).mono one_le_two⟩
  | recv => exact ⟨_, recvOp_makes.discard.mono one_le_two⟩
  | addrack => exact ⟨_, addrackOp_makes⟩
  | stopack => exact ⟨_, stopackOp_makes⟩
  | stopclr => exact ⟨_, stopclrOp_makes⟩

/-- Every command stays within its operation's bound, refused or run, abandoned or not. -/
theorem exec_trace_length {i : Instr} {s t : State} (h : exec i s = .next t) :
    ∃ l, t.trace = s.trace ++ l ∧ l.length ≤ accessBound i := by
  obtain ⟨u, hu, rfl | ⟨op, hop, rfl⟩⟩ := exec_ends h <;> rw [hu.trace]
  · exact ⟨[], by simp⟩
  · obtain ⟨P, hmakes⟩ := hop.makes_bounded
    obtain ⟨l, hl, hlen, -⟩ := hmakes s.begun
    exact ⟨l, hl, hlen⟩

/-- Settles O38: the bound of each operation is the one the statement gives it. -/
theorem operationsAreBounded : Obligations.OperationsAreBounded := by
  unfold Obligations.OperationsAreBounded
  intro i s t ht
  obtain ⟨l, hl, hlen⟩ := exec_trace_length ht
  refine ⟨l, hl, hlen.trans (accessBound_le i), ?_⟩
  cases i with
  | init => exact ⟨fun _ => hlen, nofun, nofun, fun _ h => absurd rfl h⟩
  | poll => exact ⟨nofun, nofun, nofun, fun h => absurd rfl h⟩
  | stopclr => exact ⟨nofun, fun _ => hlen, nofun, fun _ _ h => absurd rfl h⟩
  | stopack => exact ⟨nofun, nofun, fun _ => hlen, fun _ _ _ h => absurd rfl h⟩
  | tcalc | decode | errclr | send | recv | addrack => exact ⟨nofun, nofun, nofun, fun _ _ _ _ => hlen⟩

/-! ### POLL up to its dispatch -/

/-- POLL's accesses before its dispatch: ERRCLR's, then DECODE's (rules R171, R178). -/
def pollAccesses (e v w : Word) : List Access := errclrAccesses e ++ [.read .SR1 v, .read .SR2 w]

/-- What ERRCLR and DECODE put into POLL's record (rules R126, R136). -/
def pollReport (e : Word) (ev : Event) (r : Result) : Result := { r with errs := errBits e, event := ev.code }

/-- POLL passes its gate in phase `Ready` alone, the component operations exposed or not (rule R190). -/
theorem gate_poll_eq_none_iff (s : State) : gate .poll s = none ↔ s.block.phase = .ready := by
  simp only [gate, isComponent, phaseReason]
  cases s.block.phase <;> simp

/-- POLL's part up to its dispatch: error clear, then decode (rule R171). -/
theorem pollOp_run {s : State} (h : s.resetAfter = none) :
    ∃ e v w, s.answered (pollAccesses e v w) ∧
      pollOp s = dispatchOp (classify (snapshot v w))
        ((s.performed (pollAccesses e v w)).withResult (pollReport e (classify (snapshot v w)))) := by
  obtain ⟨hans, hclear⟩ := errclrOp_run h
  obtain ⟨v, w, hans', hdecode⟩ := decodeOp_run
    (s := (s.performed (errclrAccesses (s.answer .SR1))).withResult
      fun r => { r with errs := errBits (s.answer .SR1) }) (State.performed_resetAfter h _)
  rw [State.answered_withResult] at hans'
  refine ⟨s.answer .SR1, v, w, (State.answered_append _ _ _).2 ⟨hans, hans'⟩, ?_⟩
  rw [pollOp, Op.bind_ok hclear, Op.bind_ok hdecode, State.performed_withResult, pollAccesses, State.performed_append]
  rfl

/-- POLL in phase `Ready` ends as the dispatch of the decoded event does (rule R171). -/
theorem exec_poll_run {s : State} (hp : s.block.phase = .ready) (hn : s.resetAfter = none) :
    ∃ e v w, s.answered (pollAccesses e v w) ∧
      exec .poll s = concluded (dispatchOp (classify (snapshot v w))
        ((s.performed (pollAccesses e v w)).begun.withResult (pollReport e (classify (snapshot v w))))) := by
  obtain ⟨e, v, w, hans, hrun⟩ := pollOp_run (s := s.begun) hn
  refine ⟨e, v, w, (State.answered_begun s _).1 hans, ?_⟩
  change gated .poll pollOp s = _
  rw [gated, (gate_poll_eq_none_iff s).2 hp, ← State.performed_begun, ← hrun]
  rfl

/-! ### The dispatch (O36) -/

section Dispatch

variable {u : State}

/-- A command that has made its accesses and filled in its record returns it `Ok` (rule R76). -/
theorem concluded_ok (hn : u.resetAfter = none) (f : Result → Result) :
    concluded (.ok () (u.begun.withResult f)) = .next (u.returning { f Result.zero with status := .ok, code := 0 }) :=
  congrArg _ (State.ended_begun_withResult hn f .ok 0)

/-- A command that ends as STOPACK's loop does keeps the fields set before it, in a fault too (rules R161, R192). -/
theorem concluded_stopackEnd (hn : u.resetAfter = none) {f : Result → Result} (hst : (f Result.zero).status = .ok)
    (hcode : (f Result.zero).code = 0) (n : Nat) (last : Word) :
    concluded (stopackEnd n last (u.begun.withResult f)) =
      .next (u.returning (stopackResult (f Result.zero) n last)) := by
  have hend := State.ended_begun_withResult hn fun r => { f r with iters := BitVec.ofNat 4 n }
  rw [stopackEnd, stopackResult]
  cases sr1STOPF last with
  | false =>
    refine congrArg _ ((hend .ok 0).trans ?_)
    rw [← hst, ← hcode]
    rfl
  | true => exact congrArg _ (hend .fault _)

/-- Nothing is done for `Absence` and `ReceiverAddressMatched` (rule R173). -/
theorem concluded_dispatch_idle (hn : u.resetAfter = none) (f : Result → Result) {ev : Event}
    (hev : ev = .absence ∨ ev = .receiverAddressMatched) :
    concluded (dispatchOp ev (u.begun.withResult f)) =
      .next (u.returning { f Result.zero with status := .ok, code := 0 }) := by
  obtain rfl | rfl := hev <;> exact concluded_ok hn f

/-- `ByteReceived`: RECV's read, and its byte on the sink (rules R174, R175). -/
theorem concluded_dispatch_byteReceived (hn : u.resetAfter = none) (f : Result → Result) :
    concluded (dispatchOp .byteReceived (u.begun.withResult f)) =
      .next (((u.access (.read .DR (u.answer .DR))).emitted (drByte (u.answer .DR))).returning
        { f Result.zero with rxByte := drByte (u.answer .DR), rxValid := true, status := .ok, code := 0 }) := by
  have hdispatch := (Op.bind_ok (recvOp_run (s := u.begun.withResult f) hn)).trans
    (emitSink_run (drByte (u.answer .DR)) (State.performed_resetAfter hn [.read .DR (u.answer .DR)]))
  exact (congrArg concluded hdispatch).trans
    (concluded_ok (u := (u.access (.read .DR (u.answer .DR))).emitted (drByte (u.answer .DR))) (by simp [hn])
      fun r => { f r with rxByte := drByte (u.answer .DR), rxValid := true })

/-- The three transmitter events: SEND of the `tx_data` then in force (rules R176, R177). -/
theorem concluded_dispatch_transmit (hn : u.resetAfter = none) (f : Result → Result) {ev : Event}
    (hev : ev = .transmitterAddressMatched ∨ ev = .byteTransmitted ∨ ev = .byteTransmitting) :
    concluded (dispatchOp ev (u.begun.withResult f)) =
      .next ((u.access (.write .DR (drValue u.inputs.txData))).returning
        { f Result.zero with
          txReq := true, txFirst := ev == .transmitterAddressMatched, status := .ok, code := 0 }) := by
  have hsend := sendOp_run u.inputs.txData
    (s := (u.begun.withResult f).withResult fun r => { r with txFirst := ev == .transmitterAddressMatched }) hn
  have hdispatch : dispatchOp ev = respondOp (ev == .transmitterAddressMatched) := by
    obtain rfl | rfl | rfl := hev <;> rfl
  rw [hdispatch]
  exact (congrArg concluded hsend).trans
    (concluded_ok (u := u.access (.write .DR (drValue u.inputs.txData))) (by simp [hn])
      fun r => { f r with txReq := true, txFirst := ev == .transmitterAddressMatched })

/-- `StopDetected`: STOPCLR, whose fault keeps the fields set before it (rules R165, R171, R192). -/
theorem concluded_dispatch_stopDetected (hn : u.resetAfter = none) {f : Result → Result}
    (hst : (f Result.zero).status = .ok) (hcode : (f Result.zero).code = 0) :
    ∃ a b rounds last, StopackRun rounds last ∧ u.answered (addrackAccesses a b ++ stopackAccesses rounds last) ∧
      concluded (dispatchOp .stopDetected (u.begun.withResult f)) =
        .next ((u.performed (addrackAccesses a b ++ stopackAccesses rounds last)).returning
          (stopackResult (f Result.zero) rounds.length last)) := by
  obtain ⟨a, b, rounds, last, hstop, hans, hrun⟩ := stopclrOp_run (s := u.begun.withResult f) hn
  rw [State.answered_withResult, State.answered_begun] at hans
  rw [State.performed_withResult, State.performed_begun] at hrun
  exact ⟨a, b, rounds, last, hstop, hans, (congrArg concluded hrun).trans
    (concluded_stopackEnd (State.performed_resetAfter hn _) hst hcode rounds.length last)⟩

end Dispatch

/-- Settles O36: POLL runs up to its dispatch, and the dispatch of each event ends as the event's operation does. -/
theorem pollRuns : Obligations.PollRuns := by
  unfold Obligations.PollRuns
  intro s hp hn
  obtain ⟨e, v, w, hans, hrun⟩ := exec_poll_run hp hn
  have hn' := State.performed_resetAfter hn (pollAccesses e v w)
  refine ⟨e, v, w, hans, fun hev => ?_, fun hev => ?_, fun hev => ?_, fun hev => ?_⟩
  · exact hrun.trans (concluded_dispatch_idle hn' _ hev)
  · refine ⟨(s.performed (pollAccesses e v w)).answer .DR, (State.answered_append _ _ _).2 ⟨hans, rfl, trivial⟩, ?_⟩
    rw [hrun, hev, State.performed_append, ← drByte_eq]
    exact concluded_dispatch_byteReceived hn' _
  · rw [State.performed_append, ← drValue_eq]
    exact hrun.trans (concluded_dispatch_transmit hn' _ hev)
  · obtain ⟨a, b, rounds, last, hstop, hans', hend⟩ :=
      concluded_dispatch_stopDetected (f := pollReport e .stopDetected) hn' rfl rfl
    refine ⟨a, b, rounds, last, hstop, (State.answered_append _ _ _).2 ⟨hans, hans'⟩, ?_⟩
    rw [hrun, hev, State.performed_append]
    exact hend

/-! ### The byte received (O37) -/

/-- POLL is refused outside phase `Ready`, and a refusal reports no event (rule R190). -/
theorem phase_of_exec_poll_event {s t : State} (hn : s.resetAfter = none) (ht : exec .poll s = .next t)
    (hev : t.result.event ≠ 0) : s.block.phase = .ready := by
  rw [← gate_poll_eq_none_iff]
  cases hg : gate .poll s with
  | none => rfl
  | some r =>
    rw [exec_of_gate hg, State.refusedFor_eq_returning hn] at ht
    cases ht
    exact absurd rfl hev

/-- The four ways POLL's dispatch can go (rules R171, R173 to R177). -/
theorem Event.dispatch_cases (ev : Event) :
    (ev = .absence ∨ ev = .receiverAddressMatched) ∨ ev = .byteReceived ∨
      (ev = .transmitterAddressMatched ∨ ev = .byteTransmitted ∨ ev = .byteTransmitting) ∨ ev = .stopDetected := by
  cases ev <;> decide

/-- Code 3 is `ByteReceived`'s alone (rule R77). -/
theorem Event.code_eq_three_iff (ev : Event) : ev.code = 3 ↔ ev = .byteReceived := by
  cases ev <;> decide

theorem stopackResult_event (r : Result) (n : Nat) (last : Word) : (stopackResult r n last).event = r.event := by
  unfold stopackResult
  split <;> rfl

theorem readCount_append (r : Reg) (l m : List Access) : readCount r (l ++ m) = readCount r l + readCount r m := by
  induction l with
  | nil => simp [readCount]
  | cons a l ih => cases a <;> simp [readCount, ih, Nat.add_assoc]

/-- ERRCLR reads SR1 once, and no other register (rule R126). -/
theorem readCount_errclrAccesses (r : Reg) (e : Word) :
    readCount r (errclrAccesses e) = if .SR1 = r then 1 else 0 := by
  unfold errclrAccesses
  split <;> simp [readCount]

/-- ERRCLR writes SR1 alone (rule R126). -/
theorem reg_of_write_mem_errclrAccesses {r : Reg} {x e : Word} (h : .write r x ∈ errclrAccesses e) : r = .SR1 := by
  unfold errclrAccesses at h
  split at h
  · exact absurd h (by simp)
  · obtain ⟨hr, -⟩ : r = .SR1 ∧ x = e &&& ~~~errMask := by simpa using h
    exact hr

/-- Settles O37: only the dispatch of `ByteReceived` reports its code, and before it POLL neither reads nor writes DR. -/
theorem pollForwardsTheReceivedByte : Obligations.PollForwardsTheReceivedByte := by
  unfold Obligations.PollForwardsTheReceivedByte
  intro s t hn ht hev
  have hp := phase_of_exec_poll_event hn ht (by simp [hev])
  obtain ⟨e, v, w, -, hidle, hreceived, htransmit, hstop⟩ := pollRuns s hp hn
  have hcode : t.result.event = (classify (snapshot v w)).code := by
    obtain h | h | h | h := Event.dispatch_cases (classify (snapshot v w))
    · cases (hidle h).symm.trans ht
      rfl
    · obtain ⟨d, -, hexec⟩ := hreceived h
      cases hexec.symm.trans ht
      rfl
    · cases (htransmit h).symm.trans ht
      rfl
    · obtain ⟨a, b, rounds, last, -, -, hexec⟩ := hstop h
      cases hexec.symm.trans ht
      exact stopackResult_event _ _ _
  obtain ⟨d, -, hexec⟩ := hreceived ((Event.code_eq_three_iff _).1 (hcode.symm.trans hev))
  cases hexec.symm.trans ht
  refine ⟨pollAccesses e v w ++ [.read .DR d], d, ?_, ?_, by simp, fun x hx => ?_, ?_, rfl, rfl⟩
  · exact State.performed_trace s (pollAccesses e v w ++ [.read .DR d])
  · simp [pollAccesses, readCount_append, readCount_errclrAccesses, readCount]
  · have hmem : .write .DR x ∈ errclrAccesses e := by simpa [pollAccesses] using hx
    cases reg_of_write_mem_errclrAccesses hmem
  · exact congrArg (· ++ _) (State.performed_sink s _)

end Sys2Proof.Machine

/-! # The gating table, and a reset during a command -/

namespace Sys2Proof.Machine

/-! ### The refusals of the gating table (O8) -/

/-- Every operation but INIT and POLL is a component operation (rule R72). -/
theorem isComponent_of_ne {i : Instr} (hinit : i ≠ .init) (hpoll : i ≠ .poll) : isComponent i = true := by
  cases i with
  | init => exact absurd rfl hinit
  | poll => exact absurd rfl hpoll
  | tcalc | decode | errclr | send | recv | addrack | stopack | stopclr => rfl

/-- The one spelling of the mode ports that is no BusMode (rule R75). -/
theorem busMode_illegal {i : Inputs} (hfast : i.cfgModeFast = false) (hduty : i.cfgModeDuty = true) :
    busMode i = none := by
  simp only [busMode, hfast, hduty]

section Refusals

variable {i : Instr} {s : State} (hn : s.resetAfter = none)
include hn

/-- A command its gate refuses, with no reset asserted, returns the refusal's record and does nothing else. -/
theorem exec_refusal {r : Reason} (hg : gate i s = some r) : exec i s = .next (s.returning (Result.refusal r)) := by
  rw [exec_of_gate hg, State.refusedFor_eq_returning hn]

/-- A hidden component operation is refused in every phase, before every other check of the table. -/
theorem exec_hidden (hcomp : isComponent i = true) (hhidden : s.straps.exposeComponentOps = false) :
    exec i s = .next (s.returning (Result.refusal .componentOpsHidden)) :=
  exec_refusal hn (by simp [gate, hcomp, hhidden])

/-- INIT and POLL are refused for what the phase says of them. -/
theorem exec_phase_refusal {r : Reason} (hi : isComponent i = false) (hp : phaseReason i s.block.phase = some r) :
    exec i s = .next (s.returning (Result.refusal r)) :=
  exec_refusal hn (by simp [gate, hi, hp])

/-- POLL is not ready outside phase `Ready`. -/
theorem exec_poll_notReady (hp : s.block.phase ≠ .ready) :
    exec .poll s = .next (s.returning (Result.refusal .notReady)) := by
  refine exec_phase_refusal hn rfl ?_
  cases hphase : s.block.phase with
  | ready => exact absurd hphase hp
  | unconfigured | failed => rfl

/-- Past its gate an operation on a BusMode is refused where the mode ports spell none (rules R75, R190). -/
theorem gatedMode_illegalMode {op : BusMode → Op Unit} (hg : gate i s = none) (hm : busMode s.inputs = none) :
    gatedMode i op s = .next (s.returning (Result.refusal .illegalMode)) := by
  rw [gatedMode, hg, hm, ← State.refusedFor_eq_returning hn]
  rfl

end Refusals

/-- Settles O8, row by row of the gating table: hidden, the phase for INIT, for POLL and for the component operations,
then the spelling of the mode. -/
theorem refusalsFollowTheGatingTable : Obligations.RefusalsFollowTheGatingTable := by
  unfold Obligations.RefusalsFollowTheGatingTable
  intro s hn
  refine ⟨fun i hinit hpoll hhidden => exec_hidden hn (isComponent_of_ne hinit hpoll) hhidden,
    fun hp => exec_phase_refusal (i := .init) (r := .alreadyConfigured) hn rfl (by rw [hp]; rfl),
    fun hp => exec_phase_refusal (i := .init) (r := .notReady) hn rfl (by rw [hp]; rfl),
    exec_poll_notReady hn, fun i hinit htcalc hexposed hp => ?_, fun hfast hduty => ⟨fun hp => ?_, fun hexposed => ?_⟩⟩
  · by_cases hpoll : i = .poll
    · exact hpoll ▸ exec_poll_notReady hn hp
    · exact (gatedComponent (isComponent_of_ne hinit hpoll) htcalc s hn).2 hexposed hp
  · exact gatedMode_illegalMode hn ((gate_init_eq_none_iff s).2 hp) (busMode_illegal hfast hduty)
  · have hg : gate .tcalc s = none := by simp [gate, hexposed, phaseReason]
    exact gatedMode_illegalMode hn hg (busMode_illegal hfast hduty)

/-! ### How far a command gets before its reset (O52) -/

/-- With the reset due after `k` outward actions in `s`, the accesses made up to `t` and the actions still allowed there
are at most `k` together (rule R205; log 8). -/
def ResetBudget (s t : State) : Prop :=
  ∀ k, s.resetAfter = some k → ∃ l k', t.trace = s.trace ++ l ∧ t.resetAfter = some k' ∧ l.length + k' ≤ k

theorem ResetBudget.of_same {s t : State} (htrace : t.trace = s.trace) (hreset : t.resetAfter = s.resetAfter) :
    ResetBudget s t :=
  fun k hk => ⟨[], k, by simp [htrace], hreset.trans hk, by simp⟩

theorem ResetBudget.refl (s : State) : ResetBudget s s := .of_same rfl rfl

theorem ResetBudget.trans (s t u : State) (h : ResetBudget s t) (h' : ResetBudget t u) : ResetBudget s u := by
  intro k hk
  obtain ⟨l, m, htrace, hm, hle⟩ := h k hk
  obtain ⟨l', n, htrace', hn, hle'⟩ := h' m hm
  exact ⟨l ++ l', n, by rw [htrace', htrace, List.append_assoc], hn, by rw [List.length_append]; omega⟩

/-- An access made while the reset is not yet due uses up one of the actions allowed. -/
theorem ResetBudget.access {s : State} (h : s.resetAfter ≠ some 0) (a : Access) : ResetBudget s (s.access a) := by
  intro k hk
  have hk0 : k ≠ 0 := fun h0 => h (h0 ▸ hk)
  exact ⟨[a], k - 1, rfl, by simp [hk], by rw [List.length_singleton]; omega⟩

/-- A byte put on the sink uses up an action and is no access. -/
theorem ResetBudget.emitted (s : State) (b : Byte) : ResetBudget s (s.emitted b) :=
  fun k hk => ⟨[], k - 1, by simp, by simp [hk], by simp⟩

/-- An outward action stays in the budget: the reset that is due comes before it, or it finds the reset not yet due. -/
theorem ResetBudget.of_cases {α : Type} {x : Op α} {a : α} {s t : State}
    (hx : (s.resetAfter = some 0 ∧ x s = .error .reset s) ∨ (s.resetAfter ≠ some 0 ∧ x s = .ok a t))
    (ht : s.resetAfter ≠ some 0 → ResetBudget s t) : ResetBudget s (x.final s) := by
  obtain ⟨-, h⟩ | ⟨hs, h⟩ := hx
  · rw [Op.final_error h]
    exact .refl s
  · rw [Op.final_ok h]
    exact ht hs

theorem regRead_resetBudget (r : Reg) : Op.Keeps ResetBudget (regRead r) :=
  fun s => .of_cases (regRead_cases r s) fun h => .access h _

theorem regWrite_resetBudget (r : Reg) (v : Word) : Op.Keeps ResetBudget (regWrite r v) :=
  fun s => .of_cases (regWrite_cases r v s) fun h => .access h _

/-- No part of an operation outruns the reset. -/
theorem PartOf.resetBudget {i : Instr} {α : Type} {x : Op α} (h : PartOf i x) : Op.Keeps ResetBudget x := by
  induction h with
  | pure a => exact .pure .refl a
  | bind _ _ ihx ihf => exact .bind .trans ihx ihf
  | look _ _ ihf => exact .bind .trans .refl ihf
  | read r => exact regRead_resetBudget r
  | write r v _ => exact regWrite_resetBudget r v
  | reassert => exact .bind .trans (regRead_resetBudget .CR) fun _ => regWrite_resetBudget .CR _
  | setResult f _ => exact fun s => .of_same rfl rfl
  | setBlock f _ _ => exact fun s => .of_same rfl rfl
  | emitSink b _ => exact fun s => .of_cases (emitSink_cases b s) fun _ => .emitted s b
  | raise f _ => exact .refl

/-- With a reset asserted a command ends in the reset, on top of what its operation has left (rules R203, R205). -/
theorem CommandEnd.eq_hostReset {u t : State} (h : CommandEnd u t) (hu : u.resetAfter ≠ none) : t = u.hostReset := by
  cases h with
  | refused r hn => exact absurd hn hu
  | ok hn => exact absurd hn hu
  | fault f _ hn => exact absurd hn hu
  | reset _ => rfl

/-- A command with a reset asserted during it, refused or run, is the reset of a state its operation has got to. -/
theorem exec_of_reset {i : Instr} {s : State} (hs : s.resetAfter ≠ none) :
    ∃ u, SameSurroundings s u ∧ ResetBudget s u ∧ exec i s = .next u.hostReset := by
  obtain ⟨t, ht⟩ := exec_next i s
  obtain ⟨u, hend, hu⟩ := exec_ends ht
  have hkept : Frame i s u ∧ ResetBudget s u := by
    obtain rfl | ⟨op, hop, rfl⟩ := hu
    · exact ⟨.refl i u, .refl u⟩
    · exact ⟨((Frame.closedUnder i).begun s).trans (hop.partOf.keeps (Frame.closedUnder i) _),
        .trans _ _ _ (.of_same (t := s.begun) rfl rfl) (hop.partOf.resetBudget _)⟩
  obtain ⟨hframe, hbudget⟩ := hkept
  have hreset : u.resetAfter ≠ none := fun hn => hs (hframe.resetAfter.1 hn)
  exact ⟨u, hframe.around, hbudget, hend.eq_hostReset hreset ▸ ht⟩

/-- A step on a command word, legal or not, with a reset asserted during it is the reset of a state the command has got
to (rules R203, R205). -/
theorem step_of_reset {s : State} {w : Command} {inputs : Inputs} {k : Nat} {rest : List HostAction}
    (hs : s.host = .command w inputs (some k) :: rest) :
    ∃ u, SameSurroundings (s.presented rest inputs (some k)) u ∧ ResetBudget (s.presented rest inputs (some k)) u ∧
      step s = .next u.hostReset := by
  cases hw : decodeWord w with
  | ok i =>
    rw [step_command hs hw]
    exact exec_of_reset (by simp)
  | error e =>
    rw [step_illegal hs hw, State.refusedFor_eq_hostReset rfl]
    exact ⟨_, .refl _, .refl _, rfl⟩

/-- Settles O52: the state that is reset has the surroundings presented, and its accesses are within the budget. -/
theorem resetDuringACommandResetsTheBlock : Obligations.ResetDuringACommandResetsTheBlock := by
  unfold Obligations.ResetDuringACommandResetsTheBlock
  intro s w inputs k rest hs
  obtain ⟨u, hsame, hbudget, hstep⟩ := step_of_reset hs
  obtain ⟨l, k', htrace, -, hle⟩ := hbudget k rfl
  exact ⟨u.hostReset, hstep, rfl, rfl, rfl, congrArg (· + 1) hsame.resets, rfl, hsame.host, hsame.straps, hsame.inputs,
    l, htrace, by omega⟩

end Sys2Proof.Machine

/-! # A reset that cuts an operation short -/

namespace Sys2Proof.Machine

/-! ### The host's reset between commands (O45) -/

/-- Settles O45: the block the reset leaves is unspecified but for its phase. -/
theorem hostResetTouchesNoRegister : Obligations.HostResetTouchesNoRegister := by
  unfold Obligations.HostResetTouchesNoRegister
  intro s rest hs
  exact ⟨unspecifiedBlock s.resets, rfl, step_reset hs⟩

/-! ### Where an operation stands when the reset abandons it (O46) -/

/-- `s` with the host's reset input to come after `k` outward actions (rule R205; log 8). -/
def State.armed (s : State) (k : Nat) : State := { s with resetAfter := some k }

/-- The same end of a part of an operation, with the reset still to come after `k` outward actions. -/
def armedEnd {α : Type} (k : Nat) : OpResult α → OpResult α
  | .ok a t => .ok a (t.armed k)
  | .error e t => .error e (t.armed k)

/-- `s` with another block state, another result record, returned or not, and another sink, none of which the
environment sees. -/
def State.overwritten (s : State) (b : Block) (r : Result) (returned : Bool) (sink : List Byte) : State :=
  { s with block := b, result := r, returned := returned, sink := sink }

theorem State.performed_overwritten (s : State) (b : Block) (r : Result) (returned : Bool) (sink : List Byte)
    (l : List Access) :
    (s.overwritten b r returned sink).performed l = (s.performed l).overwritten b r returned sink := by
  induction l generalizing s with
  | nil => rfl
  | cons a l ih => exact ih (s.access a)

/-- `t` is what the accesses `l` and then the bytes `bs` on the sink make of `s`, but for the block state and the result
record. -/
def State.Reaches (s : State) (l : List Access) (bs : List Byte) (t : State) : Prop :=
  ∃ b r returned, t = (s.performed l).overwritten b r returned (s.sink ++ bs)

section Reaches

variable {s t u : State} {l m : List Access} {bs : List Byte}

/-- With no access and no byte on the sink, only block state and result record change. -/
theorem State.Reaches.still (s : State) (b : Block) (r : Result) (returned : Bool) :
    s.Reaches [] [] (s.overwritten b r returned s.sink) :=
  ⟨b, r, returned, by rw [List.append_nil]; rfl⟩

theorem State.Reaches.refl (s : State) : s.Reaches [] [] s := .still s s.block s.result s.returned

theorem State.Reaches.begun (s : State) : s.Reaches [] [] s.begun := .still s s.block Result.zero false

theorem State.Reaches.access (s : State) (a : Access) : s.Reaches [a] [] (s.access a) :=
  ⟨s.block, s.result, s.returned, by rw [List.append_nil]; rfl⟩

theorem State.Reaches.trans (h : s.Reaches l [] t) (h' : t.Reaches m bs u) : s.Reaches (l ++ m) bs u := by
  obtain ⟨b, r, returned, rfl⟩ := h
  obtain ⟨b', r', returned', rfl⟩ := h'
  refine ⟨b', r', returned', ?_⟩
  rw [State.performed_overwritten, State.performed_append, List.append_nil]
  rfl

theorem State.Reaches.noReset (h : s.Reaches l bs t) (hs : s.resetAfter = none) : t.resetAfter = none := by
  obtain ⟨b, r, returned, rfl⟩ := h
  exact State.performed_resetAfter hs l

end Reaches

/-- How `x`, which with no reset makes the accesses `l` and then puts `n` bytes on the sink, goes from `s` with the
reset to come after `k` outward actions: it ends the same way when it takes no more of them than that, and is otherwise
abandoned after `k` of its accesses. -/
inductive Op.CutAt {α : Type} (x : Op α) (s : State) (l : List Access) (n k : Nat) : Prop where
  | whole {k' : Nat} : k = l.length + n + k' → x (s.armed k) = armedEnd k' (x s) → CutAt x s l n k
  | abandoned {u : State} : k ≤ l.length → s.Reaches (l.take k) [] u → x (s.armed k) = .error .reset (u.armed 0) →
      CutAt x s l n k

/-- `x` makes accesses and then puts at most `n` bytes on the sink; wherever the reset comes, it cuts that short and
changes nothing else (rule R205). -/
def Op.Cuts {α : Type} (n : Nat) (x : Op α) : Prop :=
  ∀ s, s.resetAfter = none → ∃ l bs, bs.length ≤ n ∧ s.Reaches l bs (x.final s) ∧ ∀ k, x.CutAt s l bs.length k

section Cuts

variable {α β : Type} {n : Nat}

/-- Where `x` stops, nothing follows it. -/
theorem Op.CutAt.bind_error {x : Op α} {f : α → Op β} {s t : State} {e : Stop} {l : List Access} {k : Nat}
    (hcut : x.CutAt s l n k) (hx : x s = .error e t) : (x >>= f).CutAt s l n k := by
  obtain ⟨hk, h⟩ | ⟨hk, hu, h⟩ := hcut
  · rw [hx] at h
    exact .whole hk (by rw [Op.bind_error h, Op.bind_error hx]; rfl)
  · exact .abandoned hk hu (Op.bind_error h)

/-- The reset comes during `x`, or during what follows it, or is still to come. -/
theorem Op.CutAt.bind_ok {x : Op α} {f : α → Op β} {s t : State} {a : α} {l m : List Access} {k : Nat}
    (hcut : x.CutAt s l 0 k) (hx : x s = .ok a t) (hr : s.Reaches l [] t) (hcut' : ∀ k', (f a).CutAt t m n k') :
    (x >>= f).CutAt s (l ++ m) n k := by
  have hlen : (l ++ m).length = l.length + m.length := List.length_append
  cases hcut with
  | abandoned hk hu h =>
    refine .abandoned (by omega) ?_ (Op.bind_error h)
    rwa [List.take_append_of_le_length hk]
  | @whole k' hk h =>
    rw [hx] at h
    obtain ⟨hk', h'⟩ | ⟨hk', hu, h'⟩ := hcut' k'
    · exact .whole (by omega) ((Op.bind_ok h).trans (h'.trans (congrArg _ (Op.bind_ok hx).symm)))
    · refine .abandoned (by omega) ?_ ((Op.bind_ok h).trans h')
      rw [hk, Nat.add_zero, List.take_length_add_append]
      exact hr.trans hu

/-- What may put a byte on the sink comes last. -/
theorem Op.Cuts.bind {x : Op α} {f : α → Op β} (hx : x.Cuts 0) (hf : ∀ a, (f a).Cuts n) : (x >>= f).Cuts n := by
  intro s hs
  obtain ⟨l, bs, hb, hr, hcut⟩ := hx s hs
  obtain rfl := List.eq_nil_of_length_eq_zero (Nat.le_zero.1 hb)
  cases hxs : x s with
  | error e t =>
    rw [Op.final_error hxs] at hr
    exact ⟨l, [], Nat.zero_le n, Op.final_error (Op.bind_error hxs) ▸ hr, fun k => (hcut k).bind_error hxs⟩
  | ok a t =>
    rw [Op.final_ok hxs] at hr
    obtain ⟨m, cs, hc, hr', hcut'⟩ := hf a t (hr.noReset hs)
    refine ⟨l ++ m, cs, hc, ?_, fun k => (hcut k).bind_ok hxs hr hcut'⟩
    rw [Op.final, Op.bind_ok hxs]
    exact hr.trans hr'

/-- What takes no outward action does the same with the reset to come. -/
theorem Op.Cuts.of_still {x : Op α} (h : ∀ s : State, ∃ b r, x.final s = s.overwritten b r s.returned s.sink)
    (harmed : ∀ s k, x (s.armed k) = armedEnd k (x s)) : x.Cuts n := by
  intro s _
  obtain ⟨b, r, hf⟩ := h s
  exact ⟨[], [], Nat.zero_le n, hf ▸ .still s b r _, fun k => .whole (by simp) (harmed s k)⟩

theorem Op.Cuts.pure (a : α) : Op.Cuts n (Pure.pure a : Op α) :=
  .of_still (fun s => ⟨s.block, s.result, rfl⟩) fun _ _ => rfl

theorem Op.Cuts.setResult (f : Result → Result) : Op.Cuts n (Machine.setResult f) :=
  .of_still (fun s => ⟨s.block, f s.result, rfl⟩) fun _ _ => rfl

theorem Op.Cuts.setBlock (f : Block → Block) : Op.Cuts n (Machine.setBlock f) :=
  .of_still (fun s => ⟨f s.block, s.result, rfl⟩) fun _ _ => rfl

theorem Op.Cuts.raise (f : SeuFault) : Op.Cuts n (Machine.raise f) :=
  .of_still (fun s => ⟨s.block, s.result, rfl⟩) fun _ _ => rfl

/-- The state is looked at, but not at whether a reset is to come. -/
theorem Op.Cuts.look {f : State → Op α} (hf : ∀ s, (f s).Cuts n) (hlook : ∀ s k, f (s.armed k) = f s) :
    Op.Cuts n ((get : Op State) >>= f) := by
  intro s hs
  obtain ⟨l, bs, hb, hr, hcut⟩ := hf s s hs
  refine ⟨l, bs, hb, hr, fun k => ?_⟩
  have harmed : (get >>= f) (s.armed k) = f s (s.armed k) := congrFun (hlook s k) _
  obtain ⟨hk, h⟩ | ⟨hk, hu, h⟩ := hcut k
  · exact .whole hk (harmed.trans h)
  · exact .abandoned hk hu (harmed.trans h)

/-- One outward action, an access or a byte on the sink: the reset comes before it, or it is taken. -/
theorem Op.Cuts.of_action {x : Op α} {val : State → α} {next : State → State} {l : State → List Access} {bs : List Byte}
    (hx : ∀ s : State, (s.resetAfter = some 0 ∧ x s = .error .reset s) ∨
      (s.resetAfter ≠ some 0 ∧ x s = .ok (val s) (next s)))
    (hnext : ∀ s : State, s.resetAfter = none → s.Reaches (l s) bs (next s)) (hbs : bs.length ≤ n)
    (hone : ∀ s, (l s).length + bs.length = 1)
    (hval : ∀ s k, val (s.armed k) = val s)
    (harmed : ∀ s k, next (s.armed k) = (next s).armed (k - 1)) : x.Cuts n := by
  intro s hs
  obtain ⟨h0, -⟩ | ⟨-, h⟩ := hx s
  · simp [hs] at h0
  refine ⟨l s, bs, hbs, Op.final_ok h ▸ hnext s hs, fun k => ?_⟩
  obtain ⟨hk, h'⟩ | ⟨hk, h'⟩ := hx (s.armed k)
  · obtain rfl : k = 0 := Option.some.inj hk
    exact .abandoned (Nat.zero_le _) (.refl s) h'
  · have hpos : k ≠ 0 := fun h0 => hk (h0 ▸ rfl)
    refine .whole (k' := k - 1) (by rw [hone s]; omega) ?_
    rw [h', h, hval, harmed]
    rfl

theorem Op.Cuts.read (r : Reg) : Op.Cuts n (regRead r) :=
  .of_action (l := fun s => [.read r (s.answer r)]) (regRead_cases r) (fun _ _ => .access _ _) (Nat.zero_le n)
    (fun _ => rfl) (fun _ _ => rfl) fun _ _ => rfl

theorem Op.Cuts.write (r : Reg) (v : Word) : Op.Cuts n (regWrite r v) :=
  .of_action (l := fun _ => [.write r v]) (regWrite_cases r v) (fun _ _ => .access _ _) (Nat.zero_le n)
    (fun _ => rfl) (fun _ _ => rfl) fun _ _ => rfl

theorem State.Reaches.emitted (b : Byte) {s : State} (hs : s.resetAfter = none) : s.Reaches [] [b] (s.emitted b) :=
  ⟨s.block, s.result, s.returned, by simp [State.emitted, State.overwritten, hs]⟩

theorem Op.Cuts.emitSink (b : Byte) : Op.Cuts 1 (Machine.emitSink b) :=
  .of_action (l := fun _ => []) (emitSink_cases b) (fun _ hs => .emitted b hs) le_rfl (fun _ => rfl) (fun _ _ => rfl)
    fun _ _ => rfl

end Cuts

/-! ### Every operation is cut short by the reset, and not otherwise changed

`PartOf` does not say this: what looks at the state might there look at the reset to come. -/

section Operations

variable {n : Nat}

theorem errclrOp_cuts : errclrOp.Cuts n := by
  refine .bind (.read _) fun v => ?_
  dsimp only
  split
  · exact .bind (.write _ _) fun _ => .setResult _
  · exact .setResult _

theorem decodeOp_cuts : decodeOp.Cuts n :=
  .bind (.read _) fun _ => .bind (.read _) fun _ => .bind (.setResult _) fun _ => .pure _

theorem sendOp_cuts (b : Byte) : (sendOp b).Cuts n :=
  .bind (.write _ _) fun _ => .setResult _

theorem recvOp_cuts : recvOp.Cuts n :=
  .bind (.read _) fun _ => .bind (.setResult _) fun _ => .pure _

theorem addrackOp_cuts : addrackOp.Cuts n := by
  refine .bind (.read _) fun v => ?_
  split
  · exact .bind (.read _) fun _ => .pure _
  · exact .pure _

theorem stopackLoop_cuts (left m : Nat) : (stopackLoop left m).Cuts n := by
  induction left generalizing m with
  | zero =>
    refine .bind (.read _) fun v => .bind (.setResult _) fun _ => ?_
    split
    · exact .raise _
    · exact .pure _
  | succ left ih =>
    refine .bind (.read _) fun v => ?_
    split
    · exact .bind (.read _) fun _ => .bind (.write _ _) fun _ => ih (m + 1)
    · exact .setResult _

theorem stopackOp_cuts : stopackOp.Cuts n := stopackLoop_cuts _ _

theorem stopclrOp_cuts : stopclrOp.Cuts n := .bind addrackOp_cuts fun _ => stopackOp_cuts

theorem respondOp_cuts (first : Bool) : (respondOp first).Cuts n :=
  .look (fun _ => .bind (.setResult _) fun _ => sendOp_cuts _) fun _ _ => rfl

/-- The one byte on the sink comes after RECV's access (rules R174, R175). -/
theorem dispatchOp_cuts (ev : Event) : (dispatchOp ev).Cuts 1 := by
  cases ev with
  | absence => exact .pure _
  | receiverAddressMatched => exact .pure _
  | byteReceived => exact .bind recvOp_cuts fun _ => .emitSink _
  | transmitterAddressMatched => exact respondOp_cuts true
  | byteTransmitted => exact respondOp_cuts false
  | byteTransmitting => exact respondOp_cuts false
  | stopDetected => exact stopclrOp_cuts

theorem pollOp_cuts : pollOp.Cuts 1 :=
  .bind errclrOp_cuts fun _ => .bind decodeOp_cuts fun _ => dispatchOp_cuts _

theorem tapplyOp_cuts (trise : BitVec 6) (div : BitVec 12) (fs duty : Bool) : (tapplyOp trise div fs duty).Cuts n :=
  .bind (.read _) fun _ => .bind (.write _ _) fun _ => .bind (.write _ _) fun _ => .bind (.write _ _) fun _ =>
    .bind (.read _) fun _ => .bind (.write _ _) fun _ => .bind (.read _) fun _ => .write _ _

theorem configureOp_cuts (t : TimingValues) (p : Inputs) (c : BitVec 32) : (configureOp t p c).Cuts n :=
  .bind (.setBlock _) fun _ => .bind (tapplyOp_cuts _ _ _ _) fun _ => .bind (.setBlock _) fun _ =>
    .bind (.write _ _) fun _ => .setBlock _

theorem fatal_cuts (f : SeuFault) : (fatal f).Cuts n := .bind (.setBlock _) fun _ => .raise f

theorem initOp_cuts (m : BusMode) : (initOp m).Cuts n := by
  refine .look (fun s => ?_) fun _ _ => rfl
  split
  · exact fatal_cuts _
  · refine .bind (.setResult _) fun _ => ?_
    split
    · exact configureOp_cuts _ _ _
    · exact fatal_cuts _

theorem tcalcOp_cuts (m : BusMode) : (tcalcOp m).Cuts n := by
  refine .look (fun s => ?_) fun _ _ => rfl
  split
  · exact .raise _
  · exact .setResult _

end Operations

/-- Only POLL puts a byte on the sink, and no operation more than one (rule R175). -/
theorem Runs.cuts {i : Instr} {op : Op Unit} (h : Runs i op) : op.Cuts 1 := by
  cases h with
  | init m => exact initOp_cuts m
  | poll => exact pollOp_cuts
  | tcalc m => exact tcalcOp_cuts m
  | decode => exact .bind decodeOp_cuts fun _ => .pure _
  | errclr => exact errclrOp_cuts
  | send b => exact sendOp_cuts b
  | recv => exact .bind recvOp_cuts fun _ => .pure _
  | addrack => exact addrackOp_cuts
  | stopack => exact stopackOp_cuts
  | stopclr => exact stopclrOp_cuts

/-! ### A command that the reset cuts short -/

theorem Op.final_armedEnd {α : Type} {x : Op α} {s s' : State} {k : Nat} (h : x s' = armedEnd k (x s)) :
    x.final s' = (x.final s).armed k := by
  unfold Op.final
  rw [h]
  cases x s <;> rfl

/-- Where an operation stands that the reset has cut short, or that has ended with the reset still to come. -/
theorem Op.CutAt.final {α : Type} {x : Op α} {s : State} {l : List Access} {bs : List Byte} {k : Nat}
    (h : x.CutAt s l bs.length k) (hr : s.Reaches l bs (x.final s)) :
    ∃ u k', x.final (s.armed k) = u.armed k' ∧ s.Reaches (l.take k) (if k ≤ l.length then [] else bs) u := by
  obtain ⟨hk, h⟩ | ⟨hk, hu, h⟩ := h
  · refine ⟨x.final s, _, Op.final_armedEnd h, ?_⟩
    have hbs : (if k ≤ l.length then [] else bs) = bs := by
      split
      · exact (List.eq_nil_of_length_eq_zero (by omega)).symm
      · rfl
    rwa [hbs, List.take_of_length_le (by omega)]
  · exact ⟨_, 0, Op.final_error h, by rwa [if_pos hk]⟩

/-- The reset to come is looked at neither by the gate nor by the check of the mode. -/
theorem exec_armed_cases (i : Instr) (s : State) (k : Nat) :
    (∃ r, exec i s = .next (s.refusedFor r) ∧ exec i (s.armed k) = .next ((s.armed k).refusedFor r)) ∨
    (∃ op, Runs i op ∧ exec i s = concluded (op s.begun) ∧ exec i (s.armed k) = concluded (op (s.begun.armed k))) := by
  have hgate : gate i (s.armed k) = gate i s := rfl
  have hinputs : (s.armed k).inputs = s.inputs := rfl
  obtain ⟨op, hop, he⟩ | ⟨op, hop, he⟩ := exec_eq_gated i
  · rw [he, gated, gated, hgate]
    cases gate i s with
    | some r => exact .inl ⟨r, rfl, rfl⟩
    | none => exact .inr ⟨op, hop, rfl, rfl⟩
  · rw [he, gatedMode, gatedMode, hgate, hinputs]
    cases gate i s with
    | some r => exact .inl ⟨r, rfl, rfl⟩
    | none =>
      cases busMode s.inputs with
      | none => exact .inl ⟨.illegalMode, rfl, rfl⟩
      | some m => exact .inr ⟨op m, hop m, rfl, rfl⟩

/-- Neither returning a record nor the reset takes a byte off the sink. -/
theorem CommandEnd.sink {u t : State} (h : CommandEnd u t) : t.sink = u.sink := by
  cases h <;> rfl

/-- A command that makes the accesses `l` and then puts `bs` on the sink, and the same command with the reset to come
after `k` outward actions: it is the reset of a state in which the first `k` of them have been taken. -/
theorem exec_armed {i : Instr} {s t : State} (hn : s.resetAfter = none) (ht : exec i s = .next t) (k : Nat) :
    ∃ l bs u k', t.trace = s.trace ++ l ∧ t.sink = s.sink ++ bs ∧
      s.Reaches (l.take k) (if k ≤ l.length then [] else bs) u ∧
      exec i (s.armed k) = .next (u.armed k').hostReset := by
  obtain ⟨r, h, h'⟩ | ⟨op, hop, h, h'⟩ := exec_armed_cases i s k
  · cases h.symm.trans ht
    exact ⟨[], [], s, k, by simp [State.refusedFor], by simp [State.refusedFor], by simpa using State.Reaches.refl s,
      h'.trans (congrArg _ (State.refusedFor_eq_hostReset rfl r))⟩
  · obtain ⟨l, bs, -, hr, hcut⟩ := hop.cuts s.begun hn
    obtain ⟨u, k', hu, hru⟩ := (hcut k).final hr
    have hend := hop.partOf.commandEnd (h.symm.trans ht)
    obtain ⟨t', ht'⟩ := exec_next i (s.armed k)
    have hend' := hop.partOf.commandEnd (h'.symm.trans ht')
    rw [hu] at hend'
    obtain ⟨b, r, returned, hf⟩ := (State.Reaches.begun s).trans hr
    refine ⟨l, bs, u, k', ?_, ?_, (State.Reaches.begun s).trans hru, ?_⟩
    · rw [hend.trace, hf]
      exact State.performed_trace s l
    · rw [hend.sink, hf]
      rfl
    · rw [ht', hend'.eq_hostReset (by simp [State.armed])]

/-- The peripheral does not see whether a reset is to come. -/
theorem State.performed_per_of_resetAfter (s : State) (k : Option Nat) (l : List Access) :
    (({ s with resetAfter := k } : State).performed l).per = (s.performed l).per := by
  induction l generalizing s k with
  | nil => rfl
  | cons a l ih => exact ih (s.access a) (k.map fun k => k - 1)

/-- Settles O46: where the reset comes decides how many of the outward actions are taken, and nothing else. -/
theorem resetAbandonsTheOperation : Obligations.ResetAbandonsTheOperation := by
  unfold Obligations.ResetAbandonsTheOperation
  intro i s t l k ht hl
  obtain ⟨l', bs, u, k', htrace, hsink, ⟨b, r, returned, rfl⟩, hexec⟩ := exec_armed rfl ht k
  obtain rfl : l = l' := List.append_cancel_left (hl.symm.trans htrace)
  refine ⟨_, hexec, State.performed_trace _ _, ?_, ?_, rfl, rfl, congrArg (· + 1) (State.performed_resets _ _)⟩
  · exact State.performed_per_of_resetAfter s none (l.take k)
  · rw [hsink]
    split <;> simp_all [State.overwritten, State.armed]

end Sys2Proof.Machine

/-! # The order of INIT's accesses, and what they leave -/

namespace Sys2Proof.Machine

/-! ### The order of INIT's accesses (O18) -/

/-- What the enable order demands of an access when the accesses `p` have been made before it (rules R210 to R212). -/
def EnableOrder.Admits (p : List Access) : Access → Prop
  | .write .CR v =>
    (crACK v = true → ∃ u, .write .CR u ∈ p ∧ crPE u = true) ∧
      (crPE v = true → (∃ u, .write .TRISE u ∈ p) ∧ ∃ u, .write .CCR u ∈ p)
  | .write .TRISE _ | .write .CCR _ =>
    (∃ u, .write .CR u ∈ p ∧ crPE u = false) ∧ ∀ u, .write .CR u ∈ p → crPE u = false
  | .write .OAR _ | .write .SR1 _ | .write .SR2 _ | .write .DR _ | .read _ _ => True

/-- Each access of `l` is admitted after those of `p` and the earlier ones of `l`. -/
def EnableOrder.AdmitsAll (p : List Access) : List Access → Prop
  | [] => True
  | a :: l => Admits p a ∧ AdmitsAll (p ++ [a]) l

theorem EnableOrder.AdmitsAll.admits {p l m q : List Access} {a : Access} (h : AdmitsAll p l) (hl : l = m ++ a :: q) :
    Admits (p ++ m) a := by
  induction m generalizing p l with
  | nil =>
    subst hl
    rw [List.append_nil]
    exact h.1
  | cons b m ih =>
    subst hl
    simpa using ih h.2 rfl

theorem EnableOrder.of_admitsAll {l : List Access} (h : AdmitsAll [] l) : EnableOrder l where
  ackAfterEnable _ _ _ hl := (h.admits hl).1
  enableAfterTiming _ _ _ hl := (h.admits hl).2
  timingDisabled p r v q hl hr := by
    obtain rfl | rfl := hr <;> exact h.admits hl

/-- An earlier access is before a later one however far INIT gets. -/
theorem EnableOrder.take {l : List Access} (h : EnableOrder l) (k : Nat) : EnableOrder (l.take k) := by
  have hl : ∀ p a q, l.take k = p ++ a :: q → l = p ++ a :: (q ++ l.drop k) := fun p a q hq => by
    rw [← List.cons_append, ← List.append_assoc, ← hq, List.take_append_drop]
  exact
    { ackAfterEnable := fun p v q hq => h.ackAfterEnable p v _ (hl p _ q hq)
      enableAfterTiming := fun p v q hq => h.enableAfterTiming p v _ (hl p _ q hq)
      timingDisabled := fun p r v q hq => h.timingDisabled p r v _ (hl p _ q hq) }

/-! What INIT writes to CR (rule R108). -/

section

variable (c : Word)

/-- The first write disables the peripheral. -/
theorem crPE_disabling : crPE (c &&& ~~~peMask &&& ~~~ackMask) = false := by
  simp [crPE, peMask, bitMask, Config.layout]

/-- The first write has the acknowledge off. -/
theorem crACK_disabling : crACK (c &&& ~~~peMask &&& ~~~ackMask) = false :=
  getLsbD_and_not_bitMask _ (by decide)

/-- The second write enables the peripheral. -/
theorem crPE_enabling : crPE (c &&& ~~~ackMask ||| peMask) = true := by
  simp [crPE, peMask, bitMask, Config.layout]

/-- The second write still has the acknowledge off. -/
theorem crACK_enabling : crACK (c &&& ~~~ackMask ||| peMask) = false := by
  simp [crACK, peMask, ackMask, bitMask, Config.layout, Config.regw]

end

/-- Disabled, then the timing registers, then enabled, then acknowledging (rules R210 to R212). -/
theorem initAccesses_enableOrder (trise : BitVec 6) (div : BitVec 12) (fs duty : Bool) (addr : BitVec 7)
    (c1 c2 c3 : Word) : EnableOrder (initAccesses trise div fs duty addr c1 c2 c3) := by
  refine .of_admitsAll ?_
  simp only [initAccesses_eq, tapplyAccesses, EnableOrder.AdmitsAll, EnableOrder.Admits, List.nil_append,
    List.cons_append]
  refine ⟨trivial, ?disabled, ?trise, ?ccr, trivial, ?enabled, trivial, ?acknowledging, trivial, trivial⟩
  case disabled => simp [crPE_disabling, crACK_disabling]
  case trise => simp [crPE_disabling]
  case ccr => simp [crPE_disabling]
  case enabled => simp [crACK_enabling]
  case acknowledging => simp [crPE_enabling]

/-- INIT with no reset makes its nine accesses or, refused or failed in a check, none, and so keeps the order. -/
theorem exec_init_enableOrder {s t : State} (hn : s.resetAfter = none) (h : exec .init s = .next t) :
    ∃ l, t.trace = s.trace ++ l ∧ EnableOrder l := by
  have hnone : ∀ u : State, u.trace = s.trace → ∃ l, u.trace = s.trace ++ l ∧ EnableOrder l := fun u hu =>
    ⟨[], by rw [hu, List.append_nil], .of_admitsAll trivial⟩
  obtain ⟨u, hu, rfl | ⟨_, ⟨m⟩, rfl⟩⟩ := exec_ends h <;> rw [hu.trace]
  · exact hnone u rfl
  · cases hf : freqFault s.inputs.cfgFreqHz.toNat with
    | some f =>
      rw [Op.final_error (initOp_of_freqFault (s := s.begun) hf)]
      exact hnone _ rfl
    | none =>
      cases hfit : (timingCalc s.inputs.cfgClockHz.toNat m).fits with
      | false =>
        rw [Op.final_error (initOp_of_overflow (s := s.begun) hf hfit)]
        exact hnone _ rfl
      | true =>
        obtain ⟨c1, c2, c3, -, hrun⟩ := initOp_of_fits (s := s.begun) hn hf hfit
        rw [Op.final_ok hrun]
        exact ⟨_, State.performed_trace _ _, initAccesses_enableOrder _ _ _ _ _ _ _ _⟩

/-- Settles O18: an INIT that a reset abandons makes the first accesses of the INIT it would have been (O46). -/
theorem initKeepsTheEnableOrder : Obligations.InitKeepsTheEnableOrder := by
  unfold Obligations.InitKeepsTheEnableOrder
  intro s t ht
  cases hs : s.resetAfter with
  | none => exact exec_init_enableOrder hs ht
  | some k =>
    obtain ⟨t', ht'⟩ := exec_next .init { s with resetAfter := none }
    obtain ⟨l, hl, horder⟩ := exec_init_enableOrder rfl ht'
    obtain ⟨u, hu, htrace, -⟩ := resetAbandonsTheOperation .init s t' l k ht' hl
    rw [← hs] at hu
    cases hu.symm.trans ht
    exact ⟨l.take k, htrace, horder.take k⟩

/-! ### Accesses in a row in an obedient peripheral (O19) -/

/-- The peripheral after the accesses `l`, when it reacts in the obedient way and the bus engine is silent. -/
def obedientAfter (p : Periph) : List Access → Periph
  | [] => p
  | a :: l => obedientAfter (reaction a p) l

/-- Every read in `l` was answered what the register holds at that point, nothing but the accesses having changed it. -/
def ObedientAnswers (p : Periph) : List Access → Prop
  | [] => True
  | .read r v :: l => v = getReg p.regs r ∧ ObedientAnswers (readReaction r p) l
  | .write r v :: l => ObedientAnswers (writeReaction r v p) l

/-- A silent environment leaves the peripheral as its own reactions do, and lets it answer what it holds. -/
theorem State.QuietFor.performed {s : State} {l : List Access} (hq : s.QuietFor l.length) :
    (s.performed l).per = obedientAfter s.per l ∧ (s.answered l → ObedientAnswers s.per l) := by
  induction l generalizing s with
  | nil => exact ⟨rfl, id⟩
  | cons a l ih =>
    obtain ⟨hper, hrest, hans⟩ := hq.access a
    obtain ⟨hper', hans'⟩ := ih hrest
    rw [hper] at hper' hans'
    refine ⟨hper', fun h => ?_⟩
    cases a with
    | read r v =>
      obtain ⟨hv, h⟩ := h
      exact ⟨hv.trans (hans r), hans' h⟩
    | write r v => exact hans' h

/-! What each register holds after a write, in one spelling. -/

section

variable (v : Word) (p : Periph)

/-- A write changes the register written, and SR1, and no other. -/
theorem getReg_writeReaction_of_ne {r q : Reg} (hr : q ≠ r) (hsr1 : q ≠ .SR1) :
    getReg (writeReaction r v p).regs q = getReg p.regs q := by
  cases r with
  | SR2 | DR => rfl
  | SR1 | OAR => cases q <;> simp [getReg, writeReaction] at hr hsr1 ⊢
  | CR | TRISE | CCR =>
    simp only [writeReaction]
    split <;> cases q <;> simp [getReg] at hr hsr1 ⊢

theorem getReg_writeReaction_cr :
    getReg (writeReaction .CR v p).regs .CR = crAfterWrite (getReg p.regs .CR) v :=
  writeReaction_cr v p

theorem getReg_writeReaction_trise (h : crPE (getReg p.regs .CR) = false) :
    getReg (writeReaction .TRISE v p).regs .TRISE = v :=
  (writeReaction_trise v p).trans (if_neg (Bool.eq_false_iff.1 h))

theorem getReg_writeReaction_ccr (h : crPE (getReg p.regs .CR) = false) :
    getReg (writeReaction .CCR v p).regs .CCR = v :=
  (writeReaction_ccr v p).trans (if_neg (Bool.eq_false_iff.1 h))

theorem getReg_writeReaction_oar : getReg (writeReaction .OAR v p).regs .OAR = v := rfl

end

/-! What INIT's three writes of CR leave there (rules R54, R108). -/

/-- A value without `ACK` is taken whole, enabled or not. -/
theorem crAfterWrite_of_noAck {v : Word} (h : v &&& ~~~ackMask = v) (old : Word) : crAfterWrite old v = v := by
  rw [crAfterWrite, h, ite_self]

theorem crAfterWrite_disabling (old c : Word) :
    crAfterWrite old (c &&& ~~~peMask &&& ~~~ackMask) = c &&& ~~~peMask &&& ~~~ackMask :=
  crAfterWrite_of_noAck (by rw [BitVec.and_assoc, BitVec.and_self]) old

theorem crAfterWrite_enabling (old c : Word) :
    crAfterWrite old (c &&& ~~~ackMask ||| peMask) = c &&& ~~~ackMask ||| peMask := by
  refine crAfterWrite_of_noAck ?_ old
  have hpe : peMask &&& ~~~ackMask = peMask := by decide
  rw [BitVec.and_or_distrib_right, BitVec.and_assoc, BitVec.and_self, hpe]

/-- An enabled peripheral keeps the acknowledge. -/
theorem crAfterWrite_acknowledging {c : Word} (h : crPE c = true) :
    crAfterWrite c (c ||| ackMask ||| engcMask) = c ||| ackMask ||| engcMask := by
  have hv : crPE (c ||| ackMask ||| engcMask) = true := by
    simp_all [crPE, ackMask, engcMask]
  rw [crAfterWrite, h, hv]
  rfl

/-- The last of the three: `PE`, `ACK` and `ENGC` set, every other bit as it was (rule R112). -/
theorem enabled_acknowledging_eq (c : Word) :
    (c &&& ~~~peMask &&& ~~~ackMask &&& ~~~ackMask ||| peMask) ||| ackMask ||| engcMask = c ||| 0x0441 := by
  rw [BitVec.or_assoc, BitVec.or_assoc, BitVec.and_assoc, BitVec.and_assoc]
  exact and_or_of_or_eq_allOnes (by decide) c

/-- What INIT's accesses leave in an obedient peripheral: disabled it takes the timing registers, and is then enabled
and set to acknowledge (rules R108 to R112, R121). -/
theorem obedientAfter_initAccesses {p : Periph} {trise : BitVec 6} {div : BitVec 12} {fs duty : Bool} {addr : BitVec 7}
    {c1 c2 c3 : Word} (h : ObedientAnswers p (initAccesses trise div fs duty addr c1 c2 c3)) :
    let q := obedientAfter p (initAccesses trise div fs duty addr c1 c2 c3)
    getReg q.regs .TRISE = triseValue trise ∧ getReg q.regs .CCR = ccrValue div fs duty ∧
      getReg q.regs .OAR = oarValue (ownAddress addr) ∧
      getReg q.regs .CR =
        (getReg p.regs .CR &&& ~~~peMask &&& ~~~ackMask &&& ~~~ackMask ||| peMask) ||| ackMask ||| engcMask ∧
      getReg q.regs .SR2 = getReg p.regs .SR2 ∧ getReg q.regs .DR = getReg p.regs .DR := by
  rw [initAccesses_eq] at h ⊢
  simp only [tapplyAccesses, List.cons_append, List.nil_append, ObedientAnswers, readReaction,
    getReg_writeReaction_of_ne, getReg_writeReaction_cr, ne_eq, reduceCtorEq, not_false_eq_true,
    crAfterWrite_disabling, crAfterWrite_enabling, and_true] at h
  obtain ⟨rfl, rfl, rfl⟩ := h
  simp [tapplyAccesses, obedientAfter, reaction, readReaction, getReg_writeReaction_of_ne, getReg_writeReaction_cr,
    getReg_writeReaction_trise, getReg_writeReaction_ccr, getReg_writeReaction_oar,
    crAfterWrite_disabling, crAfterWrite_enabling, crAfterWrite_acknowledging,
    crPE_disabling, crPE_enabling]

/-- Settles O19: the run of INIT (O15) in a peripheral that reacts in the obedient way. -/
theorem initLeavesThePeripheralReady : Obligations.InitLeavesThePeripheralReady := by
  unfold Obligations.InitLeavesThePeripheralReady
  intro s m hp hn hq hm h1 h2 hrise hdiv
  obtain ⟨rise, div, tStart, tAddr, tData, c1, c2, c3, -, -, -, -, -, hans, hexec⟩ :=
    initConfigures s m hp hn hm h1 h2 hrise hdiv
  obtain ⟨hper, hobey⟩ := State.QuietFor.performed (l := initAccesses rise div _ _ _ c1 c2 c3) hq
  obtain ⟨htrise, hccr, hoar, hcr, hsr2, hdr⟩ := obedientAfter_initAccesses (hobey hans)
  rw [← hper] at htrise hccr hoar hcr hsr2 hdr
  exact ⟨_, hexec, rfl, htrise.trans (triseValue_eq rise), hccr.trans (ccrValue_eq div _ _),
    hoar.trans (oarValue_ownAddress _), hcr.trans (enabled_acknowledging_eq _), hsr2, hdr⟩

end Sys2Proof.Machine

/-! # The status reads of every operation -/

namespace Sys2Proof.Machine

/-! ### A command that has passed its gate -/

/-- A command that returns no refusal, and is not reset, has passed its gate. -/
theorem gate_of_accepted {i : Instr} {s t : State} (hn : s.resetAfter = none) (ht : exec i s = .next t)
    (hr : t.result.status ≠ .refused) : gate i s = none := by
  cases hg : gate i s with
  | none => rfl
  | some r =>
    cases (exec_refusal hn hg).symm.trans ht
    exact absurd rfl hr

/-- Every component operation but TCALC passes its gate in a ready state alone (rule R190). -/
theorem State.Ready.of_gate {i : Instr} {s : State} (hn : s.resetAfter = none) (hg : Machine.gate i s = none)
    (hcomp : isComponent i = true) (htcalc : i ≠ .tcalc) : s.Ready := by
  cases hx : s.straps.exposeComponentOps with
  | false => simp [Machine.gate, hcomp, hx] at hg
  | true =>
    refine ⟨?_, hx, hn⟩
    by_contra hp
    simp [Machine.gate, hx, phaseReason_eq_notReady hcomp htcalc hp] at hg

/-! ### The reads counted (O40) -/

theorem readCount_eq_zero {r : Reg} {l : List Access} (h : ∀ v, .read r v ∉ l) : readCount r l = 0 := by
  induction l with
  | nil => rfl
  | cons a l ih =>
    have hl : readCount r l = 0 := ih fun v hv => h v (List.mem_cons_of_mem a hv)
    cases a with
    | write q v => exact hl
    | read q v =>
      have hq : q ≠ r := fun hq => h v (hq ▸ List.mem_cons_self)
      simp [readCount, hq, hl]

/-- ADDRACK reads SR1 once and SR2 at most once (rule R159). -/
theorem readCount_addrackAccesses (v w : Word) :
    readCount .SR1 (addrackAccesses v w) = 1 ∧ readCount .SR2 (addrackAccesses v w) ≤ 1 ∧
      readCount .DR (addrackAccesses v w) = 0 := by
  unfold addrackAccesses
  split <;> simp [readCount]

/-- STOPACK reports its rounds, of which it makes at most 8 (rule R163). -/
theorem stopackResult_iters (r : Result) {rounds : List (Word × Word)} {last : Word} (h : StopackRun rounds last) :
    (stopackResult r rounds.length last).iters.toNat = rounds.length := by
  obtain ⟨-, hlen, -⟩ := h
  have hmod : rounds.length % 2 ^ 4 = rounds.length := Nat.mod_eq_of_lt (by omega)
  unfold stopackResult
  split <;> simpa [Result.faulted] using hmod

/-- The table of the counted reads: how often an operation whose accesses are `l` and whose record is `r` has read SR1,
SR2 and DR (rule R216). -/
def ReadsCounted (i : Instr) (r : Result) (l : List Access) : Prop :=
  match i with
  | .init | .tcalc | .send _ => readCount .SR1 l = 0 ∧ readCount .SR2 l = 0 ∧ readCount .DR l = 0
  | .errclr => readCount .SR1 l = 1 ∧ readCount .SR2 l = 0 ∧ readCount .DR l = 0
  | .decode => readCount .SR1 l = 1 ∧ readCount .SR2 l = 1 ∧ readCount .DR l = 0
  | .recv => readCount .SR1 l = 0 ∧ readCount .SR2 l = 0 ∧ readCount .DR l = 1
  | .addrack => readCount .SR1 l = 1 ∧ readCount .SR2 l ≤ 1 ∧ readCount .DR l = 0
  | .stopack => readCount .SR1 l = r.iters.toNat + 1 ∧ readCount .SR2 l = 0 ∧ readCount .DR l = 0
  | .stopclr => readCount .SR1 l = r.iters.toNat + 2 ∧ readCount .SR2 l ≤ 1 ∧ readCount .DR l = 0
  | .poll =>
    if r.event = 6 then
      readCount .SR1 l = r.iters.toNat + 4 ∧ (readCount .SR2 l = 1 ∨ readCount .SR2 l = 2) ∧ readCount .DR l = 0
    else readCount .SR1 l = 2 ∧ readCount .SR2 l = 1 ∧ readCount .DR l = if r.event = 3 then 1 else 0

/-- The counts of a command that has made the accesses `l`, put bytes on the sink or not, and returned `r`. -/
theorem ReadsCounted.of_exec {i : Instr} {s t u : State} {r : Result} {l : List Access} (h : ReadsCounted i r l)
    (ht : exec i s = .next t) (hexec : exec i s = .next (u.returning r)) (hu : u.trace = s.trace ++ l) :
    ∃ l, t.trace = s.trace ++ l ∧ ReadsCounted i t.result l := by
  cases hexec.symm.trans ht
  exact ⟨l, hu, h⟩

/-- INIT, TCALC and SEND may read none of the three (rules R20, R181). -/
theorem exec_readsCounted_none {i : Instr} (hi : i = .init ∨ i = .tcalc ∨ ∃ b, i = .send b) {s t : State}
    (ht : exec i s = .next t) : ∃ l, t.trace = s.trace ++ l ∧ ReadsCounted i t.result l := by
  obtain ⟨l, hl, -, hown⟩ := exec_trace ht
  have hzero : ∀ r, (∀ v, ¬ Permits i (.read r v)) → readCount r l = 0 := fun r hr =>
    readCount_eq_zero fun v hv => hr v (hown _ hv).2
  refine ⟨l, hl, ?_⟩
  obtain rfl | rfl | ⟨b, rfl⟩ := hi <;>
    exact ⟨hzero _ (by simp [Permits]), hzero _ (by simp [Permits]), hzero _ (by simp [Permits])⟩

/-- Before its dispatch POLL reads SR1 twice and SR2 once (rules R126, R136, R171). -/
theorem readCount_pollAccesses (e v w : Word) :
    readCount .SR1 (pollAccesses e v w) = 2 ∧ readCount .SR2 (pollAccesses e v w) = 1 ∧
      readCount .DR (pollAccesses e v w) = 0 := by
  simp [pollAccesses, readCount_append, readCount_errclrAccesses, readCount]

/-- STOPCLR reads SR1 once more than STOPACK, and SR2 at most once (rule R165). -/
theorem readCount_stopclrAccesses (v w : Word) (rounds : List (Word × Word)) (last : Word) :
    readCount .SR1 (addrackAccesses v w ++ stopackAccesses rounds last) = rounds.length + 2 ∧
      readCount .SR2 (addrackAccesses v w ++ stopackAccesses rounds last) ≤ 1 ∧
      readCount .DR (addrackAccesses v w ++ stopackAccesses rounds last) = 0 := by
  obtain ⟨h1, h2, h3⟩ := readCount_addrackAccesses v w
  simp only [readCount_append, readCount_stopackAccesses, reduceCtorEq, if_true, if_false]
  omega

/-- POLL's counts are its dispatch's on top of those before it. -/
theorem exec_poll_readsCounted {s t : State} (hp : s.block.phase = .ready) (hn : s.resetAfter = none)
    (ht : exec .poll s = .next t) : ∃ l, t.trace = s.trace ++ l ∧ ReadsCounted .poll t.result l := by
  obtain ⟨e, v, w, -, hidle, hreceived, htransmit, hstop⟩ := pollRuns s hp hn
  obtain ⟨h1, h2, h3⟩ := readCount_pollAccesses e v w
  obtain h | h | h | h := Event.dispatch_cases (classify (snapshot v w))
  · refine ReadsCounted.of_exec (l := pollAccesses e v w) ?_ ht (hidle h) (State.performed_trace _ _)
    obtain h | h := h <;> simp [ReadsCounted, h, Event.code, h1, h2, h3]
  · obtain ⟨d, -, hexec⟩ := hreceived h
    refine ReadsCounted.of_exec (l := pollAccesses e v w ++ [.read .DR d]) ?_ ht hexec
      ((State.emitted_trace _ _).trans (State.performed_trace s _))
    simp [ReadsCounted, h, Event.code, readCount_append, readCount, h1, h2, h3]
  · refine ReadsCounted.of_exec (l := pollAccesses e v w ++ [.write .DR _]) ?_ ht (htransmit h)
      (State.performed_trace _ _)
    obtain h | h | h := h <;> simp [ReadsCounted, h, Event.code, readCount_append, readCount, h1, h2, h3]
  · obtain ⟨a, b, rounds, last, hrun, -, hexec⟩ := hstop h
    obtain ⟨g1, g2, g3⟩ := readCount_stopclrAccesses a b rounds last
    refine ReadsCounted.of_exec (l := pollAccesses e v w ++ (addrackAccesses a b ++ stopackAccesses rounds last)) ?_ ht
      hexec (State.performed_trace _ _)
    rw [ReadsCounted, if_pos ((stopackResult_event _ _ _).trans (congrArg Event.code h)), stopackResult_iters _ hrun]
    simp only [readCount_append (l := pollAccesses e v w)]
    omega

/-- Settles O40: an accepted command passes its gate, and the accesses of what then runs are counted. -/
theorem statusReadsAreCounted : Obligations.StatusReadsAreCounted := by
  unfold Obligations.StatusReadsAreCounted
  intro i s t hn ht hr
  have hg := gate_of_accepted hn ht hr
  have hready : isComponent i = true → i ≠ .tcalc → s.Ready := .of_gate hn hg
  suffices h : ∃ l, t.trace = s.trace ++ l ∧ ReadsCounted i t.result l from h
  cases i with
  | init => exact exec_readsCounted_none (.inl rfl) ht
  | tcalc => exact exec_readsCounted_none (.inr (.inl rfl)) ht
  | send b => exact exec_readsCounted_none (.inr (.inr ⟨b, rfl⟩)) ht
  | poll => exact exec_poll_readsCounted ((gate_poll_eq_none_iff s).1 hg) hn ht
  | errclr =>
    have hs := hready rfl nofun
    exact ReadsCounted.of_exec (by simp [ReadsCounted, readCount_errclrAccesses]) ht hs.exec_errclr
      (State.performed_trace _ _)
  | decode =>
    have hs := hready rfl nofun
    obtain ⟨v, w, -, hexec⟩ := hs.exec_decode
    exact ReadsCounted.of_exec (by simp [ReadsCounted, readCount]) ht hexec (State.performed_trace _ _)
  | recv =>
    have hs := hready rfl nofun
    exact ReadsCounted.of_exec (by simp [ReadsCounted, readCount]) ht hs.exec_recv (State.performed_trace _ _)
  | addrack =>
    have hs := hready rfl nofun
    obtain ⟨v, w, -, hexec⟩ := addrackRuns s hs
    exact ReadsCounted.of_exec (readCount_addrackAccesses v w) ht hexec (State.performed_trace _ _)
  | stopack =>
    have hs := hready rfl nofun
    obtain ⟨rounds, last, hrun, -, hexec⟩ := stopackRuns s hs
    refine ReadsCounted.of_exec ?_ ht hexec (State.performed_trace _ _)
    simp [ReadsCounted, stopackResult_iters _ hrun, readCount_stopackAccesses]
  | stopclr =>
    have hs := hready rfl nofun
    obtain ⟨v, w, rounds, last, hrun, -, hexec⟩ := stopclrRuns s hs
    refine ReadsCounted.of_exec ?_ ht hexec (State.performed_trace _ _)
    rw [ReadsCounted, stopackResult_iters _ hrun]
    exact readCount_stopclrAccesses v w rounds last

end Sys2Proof.Machine
